-- ==== Sys2Proof/Word.lean ====
section
/-! DEFINITION. The word types of SZ81-SYNC and the small closed types its commands and device carry. -/

namespace Sys2Proof

/-- A command or response word (30_encoding.md R100, R104). -/
abbrev Word := BitVec 32

/-- A byte: a frame cell, a colour entry, a matrix row, an output byte (20_memory.md R60). -/
abbrev Byte := BitVec 8

/-- A PCM sample, one RING slot or one data beat (30_encoding.md R105). -/
abbrev Sample := BitVec 16

/-- The two sample formats the source has (30_encoding.md R107). -/
inductive SampleFormat
  | unsigned8
  | unsigned16
  deriving DecidableEq, Repr, Inhabited

/-- The two command ports (30_encoding.md R100). -/
inductive Port
  | P
  | C
  deriving DecidableEq, Repr

/-- One device pixel, an OPEN type with decidable equality (00_scope.md R7).
DESIGN CHOICE [7]: a pixel is named by a number, which loses nothing for a countable pixel type. -/
structure Pixel where
  code : Nat
  deriving DecidableEq, Repr, Inhabited

/-- What OPEN passes to the device, unchanged (30_encoding.md R111). -/
structure OpenRequest where
  rate : BitVec 20
  ch : BitVec 3
  fmt : SampleFormat
  deriving DecidableEq, Repr, Inhabited

/-- The device's answer to OPEN: failure, or obtained parameters with `chMinusOne + 1` channels, 1 to 7
(40_audio_ring.md R140). -/
inductive DevAnswer
  | fail
  | ok (chMinusOne : Fin 7) (fmt : SampleFormat)
  deriving DecidableEq, Repr, Inhabited

end Sys2Proof
end

