-- ==== Sys2Proof/Config.lean ====
section
/-! DEFINITION. The OPEN parameters of the hardware (00_scope.md R6, R7, R8) as plain data, and the free values:
constants with no body, of which nothing can be proved. -/

namespace Sys2Proof

/-- The OPEN parameters. State carries one such record in the field `cfg`, which no step writes, so a statement over
all states is a statement over all parameters [1]. -/
structure Config where
  /-- `N`, the number of ring slots (R6). -/
  n : Nat
  /-- `FULLW`, padded width in pixels (R7). -/
  fullW : Nat
  /-- `FULLH`, padded height in rows (R7). -/
  fullH : Nat
  /-- `XOFS`, `YOFS`: offsets of the visible sub-window (R7). -/
  xOfs : Nat
  yOfs : Nat
  /-- `VISW`, `VISH`: size of the visible sub-window (R7). -/
  visW : Nat
  visH : Nat
  /-- `PIX0`, `PIX1`: the two binary pixel values (R7). -/
  pix0 : Pixel
  pix1 : Pixel
  /-- `MAX_KEYCODES` (R8). -/
  maxKeycodes : Nat
  /-- `KEYMAP[r][j]`, the key codes of slot `(r, j)`; the order and repeats within a slot mean nothing (R8, R213). -/
  keymap : List (List (List Nat))
  deriving DecidableEq, Repr

/-- Every key code of the map is below `MAX_KEYCODES` (R8); its failure is violation V5 (60_exceptions.md R241). -/
abbrev Config.keysInRange (c : Config) : Prop :=
  ∀ row ∈ c.keymap, ∀ slot ∈ row, ∀ k ∈ slot, k < c.maxKeycodes

/-- The constraints of 00_scope.md R6, R7, R8 on the parameters. -/
abbrev Config.wf (c : Config) : Prop :=
  2 ≤ c.n ∧
  (c.fullW % 8 = 0 ∧ 8 ≤ c.fullW ∧ 1 ≤ c.fullH) ∧
  (c.xOfs % 8 = 0 ∧ c.visW % 8 = 0 ∧ 8 ≤ c.visW ∧ c.xOfs + c.visW ≤ c.fullW) ∧
  (1 ≤ c.visH ∧ c.yOfs + c.visH ≤ c.fullH) ∧
  c.pix0 ≠ c.pix1 ∧
  1 ≤ c.maxKeycodes ∧
  (c.keymap.length = 8 ∧ ∀ row ∈ c.keymap, row.length = 5) ∧
  c.keysInRange

/-- The key map KM1 of 95_test_vectors.md section 2.6: slot `(r, j)` holds `5*r + j`, slot `(0, 0)` also 40 and 41. -/
def Config.km1 : List (List (List Nat)) :=
  [[[0, 40, 41], [1], [2], [3], [4]],
   [[5], [6], [7], [8], [9]],
   [[10], [11], [12], [13], [14]],
   [[15], [16], [17], [18], [19]],
   [[20], [21], [22], [23], [24]],
   [[25], [26], [27], [28], [29]],
   [[30], [31], [32], [33], [34]],
   [[35], [36], [37], [38], [39]]]

/-- The parameters of program P5 of 95_test_vectors.md: `N = 4`, geometry G1, key map KM1.
DESIGN CHOICE [1]: the parameters `State.reset` carries. -/
def Config.p5 : Config where
  n := 4
  fullW := 32
  fullH := 3
  xOfs := 8
  yOfs := 1
  visW := 16
  visH := 1
  pix0 := ⟨0⟩
  pix1 := ⟨1⟩
  maxKeycodes := 48
  keymap := Config.km1

/-- `ChromaPixel(b, inv, attr)`: an OPEN total function of its three arguments alone (R7, 41_screen_diff.md R183).
Free value [7]. -/
opaque Config.chromaPixel : Bool → Bool → Byte → Pixel

/-- The device's answer to an OPEN for which State lists none, by the number of answers drawn before
(40_audio_ring.md R140). Free value [3]. -/
opaque Config.deviceAnswer : Nat → DevAnswer

/-- What an unspecified RING slot holds, by the number of resets before and the slot (10_state.md R21).
Free value [4]. -/
opaque Config.unspecSample : Nat → Nat → Sample

/-- What an unspecified PREV byte holds, by the number of resets before and the index (10_state.md R30).
Free value [4]. -/
opaque Config.unspecPrev : Nat → Nat → Byte

/-- What an unspecified CUR byte holds (10_state.md R29). Free value [4]. -/
opaque Config.unspecCur : Nat → Byte

/-- What an unspecified CPL byte holds (10_state.md R31). Free value [4]. -/
opaque Config.unspecCpl : Nat → Byte

/-- What an unspecified KEYSTATE flag holds (10_state.md R36). Free value [4]. -/
opaque Config.unspecKey : Nat → Bool

end Sys2Proof
end

