-- ==== Sys2Proof/Syntax.lean ====
section
/-! DEFINITION. The nine commands (30_encoding.md R102, spec/opcode_table.json), one constructor per row, and what an
agent presents on a port (R100, R113). -/

namespace Sys2Proof

/-- The commands with their operands; a PUSH carries its data beats, sample 0 first (R113). -/
inductive Instr
  /-- OPEN: requested rate, channel count and format (R101 format O). -/
  | openReq (rate : BitVec 20) (ch : BitVec 3) (fmt : SampleFormat)
  /-- PUSH: `count` is the length of `samples` (R101 format N, R113). -/
  | push (samples : List Sample)
  /-- PULL: the byte length of the device's buffer (R101 format N). -/
  | pull (byteLength : BitVec 24)
  | close
  | rdovf
  | render
  | inval
  | encode
  /-- RDROW: the matrix row (R101 format R). -/
  | rdrow (row : BitVec 3)
  deriving DecidableEq, Repr

/-- What an agent presents on a port: a 32-bit command word, a 16-bit data beat (R100, R113), or, between two commands,
an action of the agent on the memory and inputs it owns (30_encoding.md R114, the lines beginning with a dot). -/
inductive PortItem (Act : Type)
  | word (w : Word)
  | beat (v : Sample)
  | act (a : Act)
  deriving DecidableEq, Repr

end Sys2Proof
end

