-- ==== Sys2Proof/WellFormed.lean ====
section
/-! DEFINITION. Which instructions are well-formed: those that have an encoding that is not reserved. -/

namespace Sys2Proof

/-- `ch == 0` in OPEN is reserved (30_encoding.md R112); `count` of PUSH has 24 bits (00_scope.md R9). -/
def Instr.wf : Instr → Bool
  | .openReq _ ch _ => decide (ch ≠ 0#3)
  | .push samples => decide (samples.length < 2 ^ 24)
  | .pull _ => true
  | .close => true
  | .rdovf => true
  | .render => true
  | .inval => true
  | .encode => true
  | .rdrow _ => true

end Sys2Proof
end

