-- ==== Sys2Proof/Decode.lean ====
section
/-! DEFINITION. The decoder, total and rejecting by name, the encoder written from the same tables (30_encoding.md
R101, R102, R112, R113), and the host's `decodeTableWord`. -/

namespace Sys2Proof

/-- Why a port stream does not begin with a command. The first four are the reserved encodings of R112 (V6); the others
say that the items are not a command word with its beats (R113) [13]. -/
inductive Reject
  | reservedOpcode
  | reservedBits
  | zeroChannels
  | wrongPort
  | strayBeat
  | notACommand
  | beatExpected
  | incomplete
  deriving DecidableEq, Repr

/-- The operation names of the opcode map (R102). -/
inductive Op
  | openReq
  | push
  | pull
  | close
  | rdovf
  | render
  | inval
  | encode
  | rdrow
  deriving DecidableEq, Repr

/-- The opcode map, bits 31:24 of a command word (R102). -/
def Op.byte : Op → Byte
  | .openReq => 0x01#8
  | .push => 0x02#8
  | .pull => 0x03#8
  | .close => 0x04#8
  | .rdovf => 0x05#8
  | .render => 0x10#8
  | .inval => 0x11#8
  | .encode => 0x20#8
  | .rdrow => 0x21#8

/-- The opcode map read backwards; every other byte is reserved (R102, R112). -/
def Op.ofByte (b : Byte) : Option Op :=
  if b = 0x01#8 then some .openReq
  else if b = 0x02#8 then some .push
  else if b = 0x03#8 then some .pull
  else if b = 0x04#8 then some .close
  else if b = 0x05#8 then some .rdovf
  else if b = 0x10#8 then some .render
  else if b = 0x11#8 then some .inval
  else if b = 0x20#8 then some .encode
  else if b = 0x21#8 then some .rdrow
  else none

/-- Port C accepts PULL only, port P the other eight (R102, 60_exceptions.md R249). -/
def Op.port : Op → Port
  | .pull => .C
  | .openReq | .push | .close | .rdovf | .render | .inval | .encode | .rdrow => .P

/-- The 1-bit code of a sample format (R107). -/
def SampleFormat.toBit : SampleFormat → BitVec 1
  | .unsigned8 => 0#1
  | .unsigned16 => 1#1

/-- The sample format of a 1-bit code; neither code is reserved (R107). -/
def SampleFormat.ofBit (b : BitVec 1) : SampleFormat :=
  if b = 1#1 then .unsigned16 else .unsigned8

/-- A decoded command word: a whole command, or a PUSH that awaits `count` data beats. -/
inductive Head
  | whole (i : Instr)
  | push (count : BitVec 24)
  deriving DecidableEq, Repr

/-- How many data beats follow the command word (R113). -/
def Head.beats : Head → Nat
  | .whole _ => 0
  | .push count => count.toNat

/-- The command, given its data beats. -/
def Head.finish : Head → List Sample → Instr
  | .whole i, _ => i
  | .push _, samples => .push samples

/-- Format Z: bits 23:0 are reserved and must be 0 (R101, R112). -/
def decodeZ (w : Word) (i : Instr) : Except Reject Head :=
  if w.extractLsb' 0 24 = 0#24 then .ok (.whole i) else .error .reservedBits

/-- Format O: `fmt` bit 23, `ch` bits 22:20 (0 reserved), `rate` bits 19:0 (R101, R112). -/
def decodeO (w : Word) : Except Reject Head :=
  if w.extractLsb' 20 3 = 0#3 then .error .zeroChannels
  else .ok (.whole (.openReq (w.extractLsb' 0 20) (w.extractLsb' 20 3) (SampleFormat.ofBit (w.extractLsb' 23 1))))

/-- Format R: bits 23:3 are reserved and must be 0, `row` bits 2:0 (R101, R112). -/
def decodeR (w : Word) : Except Reject Head :=
  if w.extractLsb' 3 21 = 0#21 then .ok (.whole (.rdrow (w.extractLsb' 0 3))) else .error .reservedBits

/-- The format of each operation (R102). -/
def decodeFields (op : Op) (w : Word) : Except Reject Head :=
  match op with
  | .openReq => decodeO w
  | .push => .ok (.push (w.extractLsb' 0 24))
  | .pull => .ok (.whole (.pull (w.extractLsb' 0 24)))
  | .close => decodeZ w .close
  | .rdovf => decodeZ w .rdovf
  | .render => decodeZ w .render
  | .inval => decodeZ w .inval
  | .encode => decodeZ w .encode
  | .rdrow => decodeR w

/-- Decode a command word presented on port `p` (R100 to R102, R112). -/
def decodeWord (p : Port) (w : Word) : Except Reject Head :=
  match Op.ofByte (w.extractLsb' 24 8) with
  | none => .error .reservedOpcode
  | some op => if op.port = p then decodeFields op w else .error .wrongPort

/-- Take exactly `n` data beats (R113). A stream that ends early is incomplete; anything else in a beat's place is no
beat [13]. -/
def takeBeats {Act : Type} : Nat → List (PortItem Act) → Except Reject (List Sample × List (PortItem Act))
  | 0, items => .ok ([], items)
  | _ + 1, [] => .error .incomplete
  | n + 1, .beat v :: items =>
    match takeBeats n items with
    | .ok (vs, rest) => .ok (v :: vs, rest)
    | .error e => .error e
  | _ + 1, .word _ :: _ => .error .beatExpected
  | _ + 1, .act _ :: _ => .error .beatExpected

/-- Decode the command at the front of port `p`'s stream and give the rest of the stream (R100, R113). -/
def decode {Act : Type} (p : Port) (items : List (PortItem Act)) : Except Reject (Instr × List (PortItem Act)) :=
  match items with
  | [] => .error .incomplete
  | .beat _ :: _ => .error .strayBeat
  | .act _ :: _ => .error .notACommand
  | .word w :: rest =>
    match decodeWord p w with
    | .error e => .error e
    | .ok h =>
      match takeBeats h.beats rest with
      | .error e => .error e
      | .ok (samples, rest') => .ok (h.finish samples, rest')

/-! The encoder, from the same tables. -/

/-- The operation of a command. -/
def Instr.op : Instr → Op
  | .openReq _ _ _ => .openReq
  | .push _ => .push
  | .pull _ => .pull
  | .close => .close
  | .rdovf => .rdovf
  | .render => .render
  | .inval => .inval
  | .encode => .encode
  | .rdrow _ => .rdrow

/-- The port a command is issued on (R102). -/
def Instr.port (i : Instr) : Port := i.op.port

/-- Bits 23:0 of the command word (R101). -/
def Instr.fieldBits : Instr → BitVec 24
  | .openReq rate ch fmt => fmt.toBit ++ ch ++ rate
  | .push samples => BitVec.ofNat 24 samples.length
  | .pull byteLength => byteLength
  | .rdrow row => 0#21 ++ row
  | .close | .rdovf | .render | .inval | .encode => 0#24

/-- The command word (R100, R101). -/
def Instr.headWord (i : Instr) : Word := i.op.byte ++ i.fieldBits

/-- The data beats after the command word (R113). -/
def Instr.beats : Instr → List Sample
  | .push samples => samples
  | .openReq _ _ _ | .pull _ | .close | .rdovf | .render | .inval | .encode | .rdrow _ => []

/-- The items an agent presents to issue a command. -/
def encode {Act : Type} (i : Instr) : List (PortItem Act) :=
  .word i.headWord :: i.beats.map PortItem.beat

/-! The host's numbering: bit 0 is the least significant bit of the command word, beats follow upward. -/

/-- The `count` 16-bit beats of the number `b`, lowest bits first. -/
def beatsOfNat : Nat → Nat → List Sample
  | 0, _ => []
  | count + 1, b => BitVec.ofNat 16 b :: beatsOfNat count (b / 2 ^ 16)

/-- The port a command word would be presented on: port C for PULL, port P for every other word (R102) [18]. -/
def portOfWord (w : Word) : Port :=
  if w.extractLsb' 24 8 = 0x03#8 then .C else .P

/-- The command word of the instruction whose bits are `w`, and the bits above it as beats. -/
def tableWord (nbits w : Nat) : Word := BitVec.ofNat 32 (w % 2 ^ nbits)

/-- The data beats that follow that word; the bits above `nbits` are 0. -/
def tableBeats (nbits w : Nat) : List Sample :=
  match decodeWord (portOfWord (tableWord nbits w)) (tableWord nbits w) with
  | .ok h => beatsOfNat h.beats (w % 2 ^ nbits / 2 ^ 32)
  | .error _ => []

/-- The instruction the decoder reads from a row's word, its beats taken from the bits above it [18]. It is `decode` of
the items laid out (Laws/Decode.lean, decodeTableWord_eq_decode), without walking the beats. -/
def decodeTableWord (nbits w : Nat) : Option Instr :=
  match decodeWord (portOfWord (tableWord nbits w)) (tableWord nbits w) with
  | .ok h => some (h.finish (tableBeats nbits w))
  | .error _ => none

end Sys2Proof
end

