-- ==== Sys2Proof/Machine/State.lean ====
section
/-! DEFINITION. The machine's state as plain data (10_state.md R20 and the interface), its faults and refusals, and the
state after reset. -/

namespace Sys2Proof.Machine

/-- An address space: `(index, cell)` pairs, indices strictly rising. An index that is not listed has no specified
value [4]. A space of bytes is a list of `Host.Cell`. -/
abbrev Memory (α : Type) := List (Nat × α)

/-- The eight address spaces (20_memory.md R60). -/
inductive Space
  | ring
  | outbuf
  | cur
  | prev
  | cpl
  | pixout
  | keystate
  | kr
  deriving DecidableEq, Repr

/-- The lifecycle of the audio unit: A_IDLE, A_OPEN, A_CLOSED (10_state.md R26). -/
inductive AState
  | idle
  | opened
  | closed
  deriving DecidableEq, Repr, Inhabited

/-- The mutual-exclusion primitive: FREE, held for a PUSH (P), held for a PULL (C) (10_state.md R28). -/
inductive Lock
  | free
  | P
  | C
  deriving DecidableEq, Repr, Inhabited

/-- The level inputs (10_state.md R34, R38). -/
inductive Input
  | inv
  | chroma
  | fbrdy
  | active
  | paused
  deriving DecidableEq, Repr

/-- What agent P's context may do between two of its commands (00_scope.md R5, 60_exceptions.md R251): write a byte of
CUR or CPL, set or clear a key flag, drive a level input. `pix` is a write to PIXOUT by someone else
(70_reset_and_hazards.md R290). -/
inductive EnvAction
  | cur (a : Nat) (v : Byte)
  | cpl (a : Nat) (v : Byte)
  | key (k : Nat) (b : Bool)
  | input (name : Input) (b : Bool)
  | pix (p : Nat) (v : Pixel)
  deriving DecidableEq, Repr

/-- What the device may do between two PULLs: put a byte into OUTBUF (70_reset_and_hazards.md R288). -/
inductive DevAction
  | out (a : Nat) (v : Byte)
  deriving DecidableEq, Repr

/-- Which agent moves in a step: P, C, or RST driving the RESET input to a level (00_scope.md R5) [2]. In `rstDuring onP onC`
RESET rises while the commands at the front of the ports so marked are under way (70_reset_and_hazards.md R280) [11]. -/
inductive Turn
  | P
  | C
  | rst (level : Bool)
  | rstDuring (onP onC : Bool)
  deriving DecidableEq, Repr

/-- The eight KeyMatrixRow registers (10_state.md R35). -/
structure Rows where
  r0 : Byte
  r1 : Byte
  r2 : Byte
  r3 : Byte
  r4 : Byte
  r5 : Byte
  r6 : Byte
  r7 : Byte
  deriving DecidableEq, Repr, Inhabited

/-- What a violation leaves in the block's registers and what the block sends meanwhile: values of which nothing is
known (60_exceptions.md R245) [8]. -/
structure Aftermath where
  startCur : Nat
  endCur : Nat
  ovf : BitVec 32
  astate : AState
  och : BitVec 3
  ofmt : SampleFormat
  lock : Lock
  rf : Bool
  kr : Rows
  responses : List Word
  requests : List OpenRequest
  deriving Inhabited

end Sys2Proof.Machine

namespace Sys2Proof

/-- What a violation leaves, by the number of resets and violations before. Free value [8]. -/
opaque Config.afterViolation : Nat → Machine.Aftermath

end Sys2Proof

namespace Sys2Proof.Machine

/-- Why the machine stops with a fault. -/
inductive Fault
  /-- An action of the environment names an index its space does not have (20_memory.md R60). Raised by `fetch` for an
  `EnvAction` or `DevAction`; no command raises it (R72). Safe: the model stops [15]. -/
  | noSuchCell (space : Space) (index : Nat)
  deriving DecidableEq, Repr

/-- Why a command has no meaning: the precondition violations V1 to V6 of 60_exceptions.md R241, R245. All are safe: the
spec leaves the hardware's behaviour unspecified and asks the model to refuse [8]. -/
inductive Refusal
  /-- An arm of `exec` whose instruction has no meaning yet; raised by `exec` alone. Safe. -/
  | notModelled (mnemonic : String)
  /-- V1: PUSH or PULL outside A_OPEN; raised by their meanings. Safe. -/
  | ringNotOpen
  /-- V2: OPEN outside A_IDLE; raised by OPEN's meaning, and by `fetch` for an OPEN with `ch == 0` [19]. Safe. -/
  | openNotIdle
  /-- V3: CLOSE outside A_OPEN; raised by CLOSE's meaning. Safe. -/
  | closeNotOpen
  /-- V4: RENDER with FBRDY = 0; raised by RENDER's meaning. Safe. -/
  | buffersNotReady
  /-- V5: ENCODE with a key map that has a code not below MAX_KEYCODES; raised by ENCODE's meaning. Safe [14]. -/
  | keyCodeOutOfRange
  /-- V6: a reserved command word, or a port stream that is no command; raised by `fetch`, and by OPEN's meaning for
  `ch == 0`. Safe [13]. -/
  | reservedEncoding (why : Reject)
  deriving DecidableEq, Repr

/-- The whole state. The first three groups are the table of 10_state.md R20; INVENTORY.md lists every field. -/
structure State where
  /-- The OPEN parameters; no step writes them [1]. -/
  cfg : Config
  -- Unit A (R21 to R28, R43)
  ring : Memory Sample
  startCur : Nat
  endCur : Nat
  ovf : BitVec 32
  astate : AState
  och : BitVec 3
  ofmt : SampleFormat
  lock : Lock
  outbuf : Memory Byte
  -- Unit R (R29 to R34)
  cur : Memory Byte
  prev : Memory Byte
  cpl : Memory Byte
  pixout : Memory Pixel
  rf : Bool
  inv : Bool
  chroma : Bool
  fbrdy : Bool
  -- Unit K (R35 to R38)
  kr : Rows
  keystate : Memory Bool
  active : Bool
  paused : Bool
  -- Interface: RESET (70_reset_and_hazards.md R280), the two ports (30_encoding.md R100), the responses (R104)
  resetIn : Bool
  portP : List (PortItem EnvAction)
  portC : List (PortItem DevAction)
  responses : List Word
  /-- What OPENs have passed to the device, oldest first (30_encoding.md R111) [17]. -/
  requests : List OpenRequest
  /-- The refusal mark (60_exceptions.md R245): set by a violation, cleared by reset alone. While it stands the cells the
  block writes hold free values [8]. -/
  mark : Option Refusal
  -- The model's own: the schedule [2], the device's answers and the counters of free values [3] [4]
  turns : List Turn
  devAnswers : List DevAnswer
  draws : Nat
  epoch : Nat
  deriving DecidableEq, Repr

/-- `KR[r] = 0xFF` for every row, the encoding of "no key pressed" (10_state.md R35). -/
def Rows.reset : Rows where
  r0 := 0xFF#8
  r1 := 0xFF#8
  r2 := 0xFF#8
  r3 := 0xFF#8
  r4 := 0xFF#8
  r5 := 0xFF#8
  r6 := 0xFF#8
  r7 := 0xFF#8

/-- The state right after the first reset (10_state.md R20, last column; 70_reset_and_hazards.md R281), with nothing
presented on a port and no turn scheduled [2].
DESIGN CHOICE: `cfg` [1], `och` and `ofmt` [5], the five level inputs [6]. -/
def State.reset : State where
  cfg := Config.p5
  ring := []
  startCur := 0
  endCur := 0
  ovf := 0#32
  astate := .idle
  och := 0#3
  ofmt := .unsigned8
  lock := .free
  outbuf := []
  cur := []
  prev := []
  cpl := []
  pixout := []
  rf := true
  inv := false
  chroma := false
  fbrdy := true
  kr := Rows.reset
  keystate := []
  active := true
  paused := false
  resetIn := false
  portP := []
  portC := []
  responses := []
  requests := []
  mark := none
  turns := []
  devAnswers := []
  draws := 0
  epoch := 0

end Sys2Proof.Machine
end

