-- ==== Sys2Proof/Machine/Operands.lean ====
section
/-! DEFINITION. Operand forms: the index of every access (20_memory.md R69 to R72), reading a cell of each space, the
bytes of a sample in every obtained format (40_audio_ring.md R143, R144), the pixels of a cell (41_screen_diff.md R182,
R183) and the response words (30_encoding.md R104). -/

namespace Sys2Proof

/-- `STRIDE`, bytes per padded row (00_scope.md R7). -/
def Config.stride (c : Config) : Nat := c.fullW / 8

/-- `CAP`, the largest number of resident samples (00_scope.md R6). -/
def Config.cap (c : Config) : Nat := c.n - 1

/-- `WCUR`, the width of the cursors in bits: `ceil(log2(N))`, for `N >= 2` the number of bits of `N - 1`
(00_scope.md R6). -/
def Config.wcur (c : Config) : Nat := Nat.log2 (c.n - 1) + 1

/-- `KEYMAP[r][j]` (00_scope.md R8); no codes outside the table. -/
def Config.slot (c : Config) (r : BitVec 3) (j : Nat) : List Nat :=
  (c.keymap.getD r.toNat []).getD j []

/-- Index of the byte of visible cell `(y, cx)` in CUR and PREV (20_memory.md R69). -/
def Config.cellAddr (c : Config) (y cx : Nat) : Nat := (y + c.yOfs) * c.stride + c.xOfs / 8 + cx

/-- Index of the colour entry of visible pixel `(x, y)` in CPL (20_memory.md R70). -/
def Config.colourAddr (c : Config) (x y : Nat) : Nat := (y + c.yOfs) * c.fullW + c.xOfs + x

/-- Index of visible pixel `(x, y)` in PIXOUT (20_memory.md R71). -/
def Config.pixelAddr (c : Config) (x y : Nat) : Nat := y * c.visW + x

end Sys2Proof

namespace Sys2Proof.Machine

/-- How many cells a space has (20_memory.md R60). OUTBUF has as many bytes as the PULL asks for; the bound here is the
largest `byteLength` [16]. -/
def Space.size (c : Config) : Space → Nat
  | .ring => c.n
  | .outbuf => 2 ^ 24 - 1
  | .cur => c.stride * c.fullH
  | .prev => c.stride * c.fullH
  | .cpl => c.fullW * c.fullH
  | .pixout => c.visW * c.visH
  | .keystate => c.maxKeycodes
  | .kr => 8

/-- The cell listed at an index, if one is. -/
def Memory.get? {α : Type} : Memory α → Nat → Option α
  | [], _ => none
  | (b, v) :: m, a => if a = b then some v else Memory.get? m a

/-- The cell at an index: the listed value, or the free value of an unspecified cell [4]. -/
def Memory.read {α : Type} (m : Memory α) (free : Nat → α) (a : Nat) : α := (Memory.get? m a).getD (free a)

/-- `RING[a]`. -/
def State.ringAt (s : State) (a : Nat) : Sample := s.ring.read (Config.unspecSample s.epoch) a

/-- `CUR[a]`. -/
def State.curAt (s : State) (a : Nat) : Byte := s.cur.read Config.unspecCur a

/-- `PREV[a]`. -/
def State.prevAt (s : State) (a : Nat) : Byte := s.prev.read (Config.unspecPrev s.epoch) a

/-- `CPL[a]`. -/
def State.cplAt (s : State) (a : Nat) : Byte := s.cpl.read Config.unspecCpl a

/-- `KEYSTATE[k]`. -/
def State.keyAt (s : State) (k : Nat) : Bool := s.keystate.read Config.unspecKey k

/-- `KR[r]` (10_state.md R35). -/
def Rows.get (k : Rows) (r : BitVec 3) : Byte :=
  match r.toNat with
  | 0 => k.r0
  | 1 => k.r1
  | 2 => k.r2
  | 3 => k.r3
  | 4 => k.r4
  | 5 => k.r5
  | 6 => k.r6
  | _ => k.r7

/-- The eight rows written together, row `r` with `f r`. -/
def Rows.ofFn (f : BitVec 3 → Byte) : Rows :=
  ⟨f 0#3, f 1#3, f 2#3, f 3#3, f 4#3, f 5#3, f 6#3, f 7#3⟩

/-- Bytes per device sample (40_audio_ring.md R144). -/
def bytesPerSample : SampleFormat → Nat
  | .unsigned8 => 1
  | .unsigned16 => 2

/-- The bytes of one sample in the obtained format: low byte then high byte (20_memory.md R62), or the high byte
(40_audio_ring.md R144). -/
def sampleBytes (fmt : SampleFormat) (v : Sample) : List Byte :=
  match fmt with
  | .unsigned8 => [v.extractLsb' 8 8]
  | .unsigned16 => [v.extractLsb' 0 8, v.extractLsb' 8 8]

/-- The bytes of one output frame: the mono sample in every obtained channel (40_audio_ring.md R144). -/
def frameBytes (och : BitVec 3) (fmt : SampleFormat) (v : Sample) : List Byte :=
  (List.replicate och.toNat (sampleBytes fmt v)).flatten

/-- `fb`, bytes per output frame (40_audio_ring.md R144). -/
def State.frameSize (s : State) : Nat := s.och.toNat * bytesPerSample s.ofmt

/-- `start` as the register of WCUR bits that it is (10_state.md R20, R22) [20]. -/
def State.startReg (s : State) : BitVec s.cfg.wcur := BitVec.ofNat s.cfg.wcur s.startCur

/-- `end` as the register of WCUR bits that it is (10_state.md R20, R23) [20]. -/
def State.endReg (s : State) : BitVec s.cfg.wcur := BitVec.ofNat s.cfg.wcur s.endCur

/-- The number of output frames of a PULL, `byteLength div fb` (40_audio_ring.md R144, 30_encoding.md R111). -/
def State.framesFor (s : State) (byteLength : BitVec 24) : Nat := byteLength.toNat / s.frameSize

/-- The samples at the `d` slots from the read cursor on, in order. -/
def State.samplesFrom (s : State) (d : Nat) : List Sample :=
  (List.range d).map fun j => s.ringAt ((s.startCur + j) % s.cfg.n)

/-- Bit of pixel `k` of a cell with byte `d`, `k = 0` leftmost: bit `7 - k` (20_memory.md R63). -/
def pixelBit (d : Byte) (k : Nat) : Bool := d.getLsbD (7 - k)

/-- Monochrome expansion of one bit (41_screen_diff.md R182). -/
def Config.monoPixel (c : Config) (inv b : Bool) : Pixel := if xor b inv then c.pix1 else c.pix0

/-- The value RENDER gives pixel `k` of visible cell `(y, cx)` (41_screen_diff.md R182, R183). -/
def State.cellPixel (s : State) (y cx k : Nat) : Pixel :=
  let b := pixelBit (s.curAt (s.cfg.cellAddr y cx)) k
  if s.chroma then Config.chromaPixel b s.inv (s.cplAt (s.cfg.colourAddr (8 * cx + k) y))
  else Config.monoPixel s.cfg s.inv b

/-- OPEN's response on success: `ofmt` in bit 23, `och` in bits 22:20 (30_encoding.md R104). -/
def openResponse (fmt : SampleFormat) (och : BitVec 3) : Word := 0#8 ++ fmt.toBit ++ och ++ 0#20

/-- OPEN's response on failure (30_encoding.md R104). -/
def openFailed : Word := 0x80000000#32

/-- RDROW's response, `zext_32(KR[row])` (30_encoding.md R104). -/
def rowResponse (v : Byte) : Word := v.setWidth 32

end Sys2Proof.Machine
end

