-- ==== Sys2Proof/Machine/Flags.lean ====
section
/-! DEFINITION. The conditions the spec derives from state, none of which is stored: ring size, empty and at capacity
(10_state.md R24), a pressed slot (42_key_matrix.md R213), the skip condition (41_screen_diff.md R181) and the gate
(42_key_matrix.md R211). -/

namespace Sys2Proof.Machine

/-- `(end - start) mod N`, the least non-negative residue (10_state.md R24, 40_audio_ring.md R147). -/
def State.ringSize (s : State) : Nat := (s.endCur + (s.cfg.n - s.startCur % s.cfg.n)) % s.cfg.n

/-- The ring is empty: `start == end` (10_state.md R24); also a collision, tested after `end` has advanced
(40_audio_ring.md R142). -/
def State.cursorsMeet (s : State) : Bool := decide (s.endCur = s.startCur)

/-- The ring is at capacity: `(end + 1) mod N == start` (10_state.md R24). -/
def State.atCapacity (s : State) : Bool := decide ((s.endCur + 1) % s.cfg.n = s.startCur)

/-- The resident samples, oldest first (00_scope.md R15). -/
def State.resident (s : State) : List Sample := s.samplesFrom s.ringSize

/-- `pressed(r, j)`: some key code of the slot is pressed (42_key_matrix.md R213). -/
def State.pressed (s : State) (r : BitVec 3) (j : Nat) : Bool := (s.cfg.slot r j).any s.keyAt

/-- The cell is skipped: unchanged byte, no full refresh, chroma mode off (41_screen_diff.md R181). -/
def State.skipped (s : State) (y cx : Nat) : Bool :=
  decide (s.curAt (s.cfg.cellAddr y cx) = s.prevAt (s.cfg.cellAddr y cx)) && !s.rf && !s.chroma

/-- The encoder's gate: `ACTIVE == 1 and PAUSED == 0` (42_key_matrix.md R211). -/
def State.gateOpen (s : State) : Bool := s.active && !s.paused

/-- The accumulator `b` of a row: bit `j` set iff slot `(r, j)` is pressed (42_key_matrix.md R210). -/
def State.rowAccumulator (s : State) (r : BitVec 3) : Byte :=
  (List.range 5).foldl (fun b j => if s.pressed r j then b ||| (1#8 <<< j) else b) 0#8

/-- The row formula `(b xor 31) or 0xE0` (42_key_matrix.md R212). -/
def rowOf (b : Byte) : Byte := (b ^^^ 31#8) ||| 0xE0#8

end Sys2Proof.Machine
end

