-- ==== Sys2Proof/Machine/Ops.lean ====
section
/-! DEFINITION. The shared operations: writing a space, the ring step `push1`, delivering a frame, the lock, responses,
the device's answer, an agent's actions between commands, violations and reset. The block takes no exceptions (60_exceptions.md
R240, R248), so there is no exception entry or return here. -/

namespace Sys2Proof.Machine

/-- The canonical form of a space: indices strictly rising. -/
abbrev Memory.wf {α : Type} (m : Memory α) : Prop := m.Pairwise fun x y => x.1 < y.1

/-- Write one cell, keeping the canonical form. -/
def Memory.set {α : Type} : Memory α → Nat → α → Memory α
  | [], a, v => [(a, v)]
  | (b, w) :: m, a, v =>
    if a < b then (a, v) :: (b, w) :: m
    else if a = b then (a, v) :: m
    else (b, w) :: Memory.set m a v

/-- Write consecutive cells from an index on. -/
def Memory.setRun {α : Type} : Memory α → Nat → List α → Memory α
  | m, _, [] => m
  | m, a, v :: vs => Memory.setRun (Memory.set m a v) (a + 1) vs

/-- Perform a list of writes in order. -/
def Memory.setAll {α : Type} (m : Memory α) (writes : List (Nat × α)) : Memory α :=
  writes.foldl (fun m w => Memory.set m w.1 w.2) m

/-- The space whose cells `0 .. size-1` hold `f`. -/
def Memory.tabulate {α : Type} (size : Nat) (f : Nat → α) : Memory α := (List.range size).map fun a => (a, f a)

/-- `respond(w)`: one response word on port P (30_encoding.md R104). -/
def State.respond (s : State) (w : Word) : State := { s with responses := s.responses ++ [w] }

/-- Pass a request to the device, unchanged (30_encoding.md R111). -/
def State.request (s : State) (r : OpenRequest) : State := { s with requests := s.requests ++ [r] }

/-- Take the lock (20_memory.md R81). -/
def State.acquire (s : State) (l : Lock) : State := { s with lock := l }

/-- Release the lock (20_memory.md R81). -/
def State.release (s : State) : State := { s with lock := .free }

/-- Advance the read cursor by one (10_state.md R22). -/
def State.advanceStart (s : State) : State := { s with startCur := (s.startCur + 1) % s.cfg.n }

/-- Write the slot `end` names, then advance `end` by one (40_audio_ring.md R142). -/
def State.writeSlot (s : State) (v : Sample) : State :=
  { s with ring := s.ring.set s.endCur v, endCur := (s.endCur + 1) % s.cfg.n }

/-- Drop exactly the one oldest sample and count it, modulo 2^32 (40_audio_ring.md R142, R148). -/
def State.dropOldest (s : State) : State := { s.advanceStart with ovf := s.ovf + 1#32 }

/-- `push1(v)` (40_audio_ring.md R142). -/
def State.push1 (s : State) (v : Sample) : State :=
  let t := s.writeSlot v
  if t.cursorsMeet then t.dropOldest else t

/-- The loop of PUSH, sample 0 first (40_audio_ring.md R141). -/
def State.pushAll (s : State) (samples : List Sample) : State := samples.foldl State.push1 s

/-- One turn of PULL's loop: the oldest sample into output frame `i`, then `start` advances (40_audio_ring.md R143,
R144). -/
def State.deliver (s : State) (i : Nat) : State :=
  let bytes := frameBytes s.och s.ofmt (s.ringAt s.startCur)
  State.advanceStart { s with outbuf := s.outbuf.setRun (i * s.frameSize) bytes }

/-- The loop of PULL: at most `k` more frames, the next one being frame `i`; it ends when the output is filled or the
ring is empty (40_audio_ring.md R143, R144). -/
def State.pullLoop (s : State) : Nat → Nat → State
  | 0, _ => s
  | k + 1, i => if s.cursorsMeet then s else State.pullLoop (s.deliver i) k (i + 1)

/-- The device's answer to this OPEN: the next one listed in State, else a free value (40_audio_ring.md R140) [3]. -/
def State.nextAnswer (s : State) : DevAnswer := s.devAnswers.headD (Config.deviceAnswer s.draws)

/-- State after the answer has been taken [3]. -/
def State.dropAnswer (s : State) : State :=
  match s.devAnswers with
  | [] => { s with draws := s.draws + 1 }
  | _ :: rest => { s with devAnswers := rest }

/-- The obtained channel count as the 3-bit `och` (40_audio_ring.md R140). -/
def channelsOf (chMinusOne : Fin 7) : BitVec 3 := BitVec.ofNat 3 (chMinusOne.val + 1)

/-- What OPEN does with the answer (40_audio_ring.md R140). -/
def State.takeAnswer (s : State) : DevAnswer → State
  | .fail => s.respond openFailed
  | .ok c fmt =>
    State.respond { s with och := channelsOf c, ofmt := fmt, astate := .opened } (openResponse fmt (channelsOf c))

/-- The pixel writes of one visible cell, left to right, none if it is skipped (41_screen_diff.md R180, R181). -/
def State.cellWrites (s : State) (y cx : Nat) : List (Nat × Pixel) :=
  if s.skipped y cx then []
  else (List.range 8).map fun k => (s.cfg.pixelAddr (8 * cx + k) y, s.cellPixel y cx k)

/-- The pixel writes of one RENDER: rows top to bottom, cells left to right (41_screen_diff.md R180). -/
def State.renderWrites (s : State) : List (Nat × Pixel) :=
  (List.range s.cfg.visH).flatMap fun y => (List.range (s.cfg.visW / 8)).flatMap fun cx => s.cellWrites y cx

/-- The pixel writes performed (41_screen_diff.md R180). -/
def State.paint (s : State) : State := { s with pixout := s.pixout.setAll s.renderWrites }

/-- The bulk copy of the whole padded buffer over PREV (41_screen_diff.md R184). -/
def State.rebaseline (s : State) : State :=
  { s with prev := Memory.tabulate (Space.size s.cfg .prev) s.curAt }

/-- The full-refresh flag cleared (41_screen_diff.md R185). -/
def State.clearRefresh (s : State) : State := { s with rf := false }

/-- All eight rows recomputed in one transition (42_key_matrix.md R210, R215). -/
def State.encodeRows (s : State) : State :=
  { s with kr := Rows.ofFn fun r => rowOf (s.rowAccumulator r) }

/-- Drive a level input (10_state.md R34, R38). -/
def State.drive (s : State) : Input → Bool → State
  | .inv, b => { s with inv := b }
  | .chroma, b => { s with chroma := b }
  | .fbrdy, b => { s with fbrdy := b }
  | .active, b => { s with active := b }
  | .paused, b => { s with paused := b }

/-- An index of a space, or the fault of one that the space does not have (20_memory.md R60) [15]. -/
def State.checked (s : State) (space : Space) (a : Nat) (t : State) : Except Fault State :=
  if a < Space.size s.cfg space then .ok t else .error (.noSuchCell space a)

/-- An action of agent P's context on what the environment owns (00_scope.md R5). -/
def State.envAct (s : State) : EnvAction → Except Fault State
  | .cur a v => s.checked .cur a { s with cur := s.cur.set a v }
  | .cpl a v => s.checked .cpl a { s with cpl := s.cpl.set a v }
  | .key k b => s.checked .keystate k { s with keystate := s.keystate.set k b }
  | .input name b => .ok (s.drive name b)
  | .pix p v => s.checked .pixout p { s with pixout := s.pixout.set p v }

/-- An action of the device on OUTBUF (70_reset_and_hazards.md R288). -/
def State.devAct (s : State) : DevAction → Except Fault State
  | .out a v => s.checked .outbuf a { s with outbuf := s.outbuf.set a v }

/-- A violation: the refusal mark is set, and every cell the block may write holds a free value or none, so that nothing
is claimed of what the hardware did (60_exceptions.md R245) [8]. -/
def State.violate (s : State) (r : Refusal) : State :=
  let x := Config.afterViolation s.epoch
  { s with
    mark := some r, ring := [], startCur := x.startCur, endCur := x.endCur, ovf := x.ovf, astate := x.astate
    och := x.och, ofmt := x.ofmt, lock := x.lock, outbuf := [], prev := [], pixout := [], rf := x.rf, kr := x.kr
    responses := s.responses ++ x.responses, requests := s.requests ++ x.requests, epoch := s.epoch + 1 }

/-- What a command's outcome comes to: a violation sets the mark (60_exceptions.md R245) [8]. -/
def State.settle (s : State) : Host.Outcome State Fault Refusal → Host.Outcome State Fault Refusal
  | .next t => .next t
  | .fault r => .fault r
  | .refused r => .next (s.violate r)

/-- Which violation a rejected word is. OPEN's checks are made in the order of its pseudocode, A_IDLE before `ch`
(40_audio_ring.md R140, 60_exceptions.md R247) [19]. -/
def State.rejection (s : State) (why : Reject) : Refusal :=
  if why = .zeroChannels ∧ s.astate ≠ .idle then .openNotIdle else .reservedEncoding why

/-- The block-owned cells at their reset values; the environment's cells and inputs keep theirs (10_state.md R20,
70_reset_and_hazards.md R281). RING and PREV become unspecified, with fresh free values [4]; `och`, `ofmt` take the
values named for reset [5]. -/
def State.resetBlock (s : State) : State :=
  { s with
    ring := [], startCur := 0, endCur := 0, ovf := 0#32, astate := .idle, och := 0#3, ofmt := .unsigned8,
    lock := .free, prev := [], rf := true, kr := Rows.reset, mark := none, epoch := s.epoch + 1 }

/-- The block in the reset state with RESET asserted (70_reset_and_hazards.md R280). -/
def State.assertReset (s : State) : State := { s.resetBlock with resetIn := true }

/-- A PUSH that awaits beats is under way when RESET rises, and is abandoned: its word and the beats that have come are
gone (70_reset_and_hazards.md R280, 30_encoding.md R113) [11]. -/
def State.dropAwaiting (s : State) : State :=
  if s.resetIn then s
  else
    match decode .P s.portP with
    | .error .incomplete => { s with portP := [] }
    | .error _ => s
    | .ok _ => s

/-- Drive the RESET input: the block is in the reset state while RESET is asserted and when it is released
(70_reset_and_hazards.md R280) [11]. -/
def State.driveReset (s : State) (level : Bool) : State :=
  if level then s.dropAwaiting.assertReset
  else if s.resetIn then { s.resetBlock with resetIn := false }
  else s

/-- The device-owned cells an abandoned command may have written hold no specified value
(70_reset_and_hazards.md R280, R281) [11]. -/
def State.blur (s : State) : Instr → State
  | .render => { s with pixout := [] }
  | .pull _ => { s with outbuf := [] }
  | .openReq _ _ _ | .push _ | .close | .rdovf | .inval | .encode | .rdrow _ => s

end Sys2Proof.Machine
end

