-- ==== Sys2Proof/Machine/Audio.lean ====
section
/-! DEFINITION. The meanings of unit A: OPEN, PUSH, PULL, CLOSE, RDOVF (40_audio_ring.md). -/

namespace Sys2Proof.Machine

/-- OPEN (40_audio_ring.md R140, R150). The request goes to the device unchanged (30_encoding.md R111) and influences
nothing else. -/
def execOpen (rate : BitVec 20) (ch : BitVec 3) (fmt : SampleFormat) (s : State) :
    Host.Outcome State Fault Refusal :=
  if s.astate ≠ .idle then .refused .openNotIdle
  else if ch = 0#3 then .refused (.reservedEncoding .zeroChannels)
  else .next (State.takeAnswer (s.request ⟨rate, ch, fmt⟩).dropAnswer s.nextAnswer)

/-- PUSH (40_audio_ring.md R141, R142, R150): one indivisible transition under the lock. -/
def execPush (samples : List Sample) (s : State) : Host.Outcome State Fault Refusal :=
  if s.astate ≠ .opened then .refused .ringNotOpen
  else .next ((s.acquire .P).pushAll samples).release

/-- PULL in every obtained format (40_audio_ring.md R143, R144, R150): one indivisible transition under the lock. -/
def execPull (byteLength : BitVec 24) (s : State) : Host.Outcome State Fault Refusal :=
  if s.astate ≠ .opened then .refused .ringNotOpen
  else .next ((s.acquire .C).pullLoop (s.framesFor byteLength) 0).release

/-- CLOSE (40_audio_ring.md R145, R150). -/
def execClose (s : State) : Host.Outcome State Fault Refusal :=
  if s.astate ≠ .opened then .refused .closeNotOpen
  else .next { s with astate := .closed }

/-- RDOVF, legal in every audio state (40_audio_ring.md R146, R150). -/
def execRdovf (s : State) : Host.Outcome State Fault Refusal :=
  .next (s.respond s.ovf)

end Sys2Proof.Machine
end

