-- ==== Sys2Proof/Machine/Keys.lean ====
section
/-! DEFINITION. The meanings of unit K: ENCODE, RDROW (42_key_matrix.md). -/

namespace Sys2Proof.Machine

/-- ENCODE (42_key_matrix.md R210, R211): nothing at all while the gate is closed; a key map with a code out of range is
violation V5 (60_exceptions.md R241) [14]. -/
def execEncode (s : State) : Host.Outcome State Fault Refusal :=
  if s.gateOpen then
    if s.cfg.keysInRange then .next s.encodeRows else .refused .keyCodeOutOfRange
  else .next s

/-- RDROW (42_key_matrix.md R214). -/
def execRdrow (row : BitVec 3) (s : State) : Host.Outcome State Fault Refusal :=
  .next (s.respond (rowResponse (s.kr.get row)))

end Sys2Proof.Machine
end

