-- ==== Sys2Proof/Machine/Screen.lean ====
section
/-! DEFINITION. The meanings of unit R: RENDER, INVAL (41_screen_diff.md). -/

namespace Sys2Proof.Machine

/-- RENDER (41_screen_diff.md R180 to R185): the pixel writes, then the bulk copy, then the flag is cleared. -/
def execRender (s : State) : Host.Outcome State Fault Refusal :=
  if s.fbrdy then .next s.paint.rebaseline.clearRefresh
  else .refused .buffersNotReady

/-- INVAL (41_screen_diff.md R186). -/
def execInval (s : State) : Host.Outcome State Fault Refusal :=
  .next { s with rf := true }

end Sys2Proof.Machine
end

