-- ==== Sys2Proof/Machine/Dispatch.lean ====
section
/-! DEFINITION. The dispatch of every command to its meaning. -/

namespace Sys2Proof.Machine

/-- One arm per row of spec/opcode_table.json. -/
def exec (i : Instr) (s : State) : Host.Outcome State Fault Refusal :=
  match i with
  | .openReq rate ch fmt => Sys2Proof.Machine.execOpen rate ch fmt s
  | .push samples => Sys2Proof.Machine.execPush samples s
  | .pull byteLength => Sys2Proof.Machine.execPull byteLength s
  | .close => Sys2Proof.Machine.execClose s
  | .rdovf => Sys2Proof.Machine.execRdovf s
  | .render => Sys2Proof.Machine.execRender s
  | .inval => Sys2Proof.Machine.execInval s
  | .encode => Sys2Proof.Machine.execEncode s
  | .rdrow row => Sys2Proof.Machine.execRdrow row s

end Sys2Proof.Machine
end

