-- ==== Sys2Proof/Machine/Fetch.lean ====
section
/-! DEFINITION. How the block comes to run a command: the turn, the port it names, the decoder, waiting for the lock or
for missing beats, the agents' actions between commands, the commands that RESET abandons, and placing a program's next command. -/

namespace Sys2Proof.Machine

/-- What a turn comes to. -/
inductive Fetched
  /-- No command starts: the state after an idle turn, a wait, an agent's action or a change of RESET. -/
  | quiet (s : State)
  /-- The command starts in this state. -/
  | command (i : Instr) (s : State)
  /-- The item at the front of the port, taken off in this state, is no command. -/
  | violation (r : Refusal) (s : State)
  | fault (r : Fault)
  | refused (r : Refusal)

/-- PUSH, PULL and RDOVF run under the lock (20_memory.md R81, 40_audio_ring.md R146). -/
def takesLock : Instr → Bool
  | .push _ | .pull _ | .rdovf => true
  | .openReq _ _ _ | .close | .render | .inval | .encode | .rdrow _ => false

/-- The command waits: the other context holds the lock (20_memory.md R89) [10]. -/
def State.mustWait (s : State) (i : Instr) : Bool := takesLock i && decide (s.lock ≠ .free)

/-- The outcome of an agent's action. -/
def Fetched.ofAction : Except Fault State → Fetched
  | .ok s => .quiet s
  | .error r => .fault r

/-- Agent P's turn: an action on what it owns, or the command at the front of its stream. No command is accepted while
RESET is asserted (70_reset_and_hazards.md R280), and none has a meaning while the refusal mark stands
(60_exceptions.md R245) [8]; a PUSH waits for its beats (30_encoding.md R113) [13]. -/
def State.fetchP (s : State) : Fetched :=
  match s.portP with
  | [] => .quiet s
  | .act a :: rest => .ofAction (State.envAct { s with portP := rest } a)
  | item :: rest =>
    if s.resetIn then .quiet s
    else
      match s.mark with
      | some r => .refused r
      | none =>
        match decode .P (item :: rest) with
        | .error .incomplete => .quiet s
        | .error why => .violation (s.rejection why) { s with portP := rest }
        | .ok (i, rest') => if s.mustWait i then .quiet s else .command i { s with portP := rest' }

/-- Agent C's turn: the device's action on OUTBUF, or the PULL at the front of its stream. -/
def State.fetchC (s : State) : Fetched :=
  match s.portC with
  | [] => .quiet s
  | .act a :: rest => .ofAction (State.devAct { s with portC := rest } a)
  | item :: rest =>
    if s.resetIn then .quiet s
    else
      match s.mark with
      | some r => .refused r
      | none =>
        match decode .C (item :: rest) with
        | .error .incomplete => .quiet s
        | .error why => .violation (s.rejection why) { s with portC := rest }
        | .ok (i, rest') => if s.mustWait i then .quiet s else .command i { s with portC := rest' }

/-- A command under way when RESET rises, in the state in which its items are taken off its port: the cells it may have
written hold nothing specified, and the lock is held if it takes the lock. An illegal one counts as the violation it is
(70_reset_and_hazards.md R280) [11]. -/
def State.interrupt (s : State) (holder : Lock) (i : Instr) : State :=
  let t := if takesLock i then s.acquire holder else s
  match exec i s with
  | .next _ => t.blur i
  | .fault _ => t.blur i
  | .refused r => s.violate r

/-- What RESET meets on port P if the command at its front is under way; if there is none, at most a PUSH that awaits
beats [11]. -/
def State.cutP (s : State) : State :=
  match s.fetchP with
  | .command i t => t.interrupt .P i
  | .violation r t => t.violate r
  | .quiet _ => s.dropAwaiting
  | .fault _ => s.dropAwaiting
  | .refused _ => s.dropAwaiting

/-- What RESET meets on port C if the command at its front is under way. A PULL that waits for the lock is not [11]. -/
def State.cutC (s : State) : State :=
  match s.fetchC with
  | .command i t => t.interrupt .C i
  | .violation r t => t.violate r
  | .quiet _ => s
  | .fault _ => s
  | .refused _ => s

/-- RESET rises while the commands at the front of the ports so marked are under way: they are abandoned, and so is a
PUSH on port P that awaits beats (70_reset_and_hazards.md R280) [11].
DESIGN CHOICE [11]: port P is looked at first, so that where its command is illegal the refusal mark already stands when
port C is looked at, and a PULL under way there stays on its port; R245 leaves open what happens to it. -/
def State.cut (s : State) (onP onC : Bool) : State :=
  let t := if onP then s.cutP else s.dropAwaiting
  let u := if onC then t.cutC else t
  u.assertReset

/-- Take the next turn of the schedule; with none left the block idles (20_memory.md R82) [2]. -/
def State.fetch (s : State) : Fetched :=
  match s.turns with
  | [] => .quiet s
  | .P :: turns => State.fetchP { s with turns := turns }
  | .C :: turns => State.fetchC { s with turns := turns }
  | .rst level :: turns => .quiet (State.driveReset { s with turns := turns } level)
  | .rstDuring onP onC :: turns => .quiet (State.cut { s with turns := turns } onP onC)

/-- Place a command word and its beats as the next command of port `p`, with that port's agent to move next, and with
nothing that keeps a command from being accepted: RESET released, no refusal mark, the lock FREE [18]. -/
def State.place (s : State) (p : Port) (w : Word) (beats : List Sample) : State :=
  let t := { s with resetIn := false, mark := none, lock := .free }
  match p with
  | .P => { t with portP := .word w :: (beats.map PortItem.beat ++ s.portP), turns := .P :: s.turns }
  | .C => { t with portC := .word w :: (beats.map PortItem.beat ++ s.portC), turns := .C :: s.turns }

end Sys2Proof.Machine
end

