-- ==== Sys2Proof/Machine/Step.lean ====
section
/-! DEFINITION. One step: one turn of one agent. -/

namespace Sys2Proof.Machine

/-- One transition: a quiet turn, or a whole command (00_scope.md R5, R13). A violation sets the refusal mark
(60_exceptions.md R245). -/
def step (s : State) : Host.Outcome State Fault Refusal :=
  match s.fetch with
  | .quiet t => .next t
  | .command i t => t.settle (exec i t)
  | .violation r t => .next (t.violate r)
  | .fault r => .fault r
  | .refused r => .refused r

/-- `s` with the instruction whose bits are `w` placed as the next command, so that the next step runs it [18]. -/
def State.withFetchWord (s : State) (nbits w : Nat) : State :=
  s.place (portOfWord (tableWord nbits w)) (tableWord nbits w) (tableBeats nbits w)

end Sys2Proof.Machine
end

