-- ==== Sys2Proof/Safety.lean ====
section
/-! DEFINITION. What holds of every state a run reaches, and what a safe step is. -/

namespace Sys2Proof.Machine

/-- A space in canonical form with no index outside it (20_memory.md R60). -/
abbrev Memory.within {α : Type} (size : Nat) (m : Memory α) : Prop := Memory.wf m ∧ ∀ c ∈ m, c.1 < size

/-- The spaces are canonical and hold no cell that does not exist (20_memory.md R60, R72). -/
structure State.SpacesOk (s : State) : Prop where
  ring : Memory.within (Space.size s.cfg .ring) s.ring
  outbuf : Memory.within (Space.size s.cfg .outbuf) s.outbuf
  cur : Memory.within (Space.size s.cfg .cur) s.cur
  prev : Memory.within (Space.size s.cfg .prev) s.prev
  cpl : Memory.within (Space.size s.cfg .cpl) s.cpl
  pixout : Memory.within (Space.size s.cfg .pixout) s.pixout
  keystate : Memory.within (Space.size s.cfg .keystate) s.keystate

/-- What the spec says of unit A in every state: cursors in range (10_state.md R22, R23), every resident slot written
since reset (R21), the lock FREE between transitions (R28), at least one obtained channel in A_OPEN, and an empty ring
with both cursors 0 in A_IDLE (40_audio_ring.md R140). -/
structure State.AudioOk (s : State) : Prop where
  start_lt : s.startCur < s.cfg.n
  end_lt : s.endCur < s.cfg.n
  written : ∀ j < s.ringSize, (s.ring.get? ((s.startCur + j) % s.cfg.n)).isSome
  lock_free : s.lock = .free
  channels : s.astate = .opened → s.och ≠ 0#3
  idle_empty : s.astate = .idle → s.startCur = 0 ∧ s.endCur = 0

/-- PREV is specified wherever a compare could use it: the flag resets to 1 and only a RENDER, which writes all of PREV,
clears it (10_state.md R30, R33). -/
def State.PrevOk (s : State) : Prop :=
  s.rf = false → ∀ a < Space.size s.cfg .prev, (s.prev.get? a).isSome

/-- Bits 7:5 of every row are 1 (10_state.md R35). -/
def State.RowsOk (s : State) : Prop := ∀ r : BitVec 3, (s.kr.get r).extractLsb' 5 3 = 0b111#3

/-- The invariant of every reachable state. Of the block's cells nothing is said while the refusal mark stands
(60_exceptions.md R245). -/
structure State.Inv (s : State) : Prop where
  params : s.cfg.wf
  spaces : s.SpacesOk
  audio : s.mark = none → s.AudioOk
  prev : s.mark = none → s.PrevOk
  rows : s.mark = none → s.RowsOk

/-! What a violation and RESET leave alone, and what RESET leaves. -/

/-- The environment's memories, the level inputs, the parameters and the device's decisions: nothing the block writes
(10_state.md R20, owner `env`). -/
structure State.SameSurroundings (s t : State) : Prop where
  cur : t.cur = s.cur
  cpl : t.cpl = s.cpl
  keystate : t.keystate = s.keystate
  inv : t.inv = s.inv
  chroma : t.chroma = s.chroma
  fbrdy : t.fbrdy = s.fbrdy
  active : t.active = s.active
  paused : t.paused = s.paused
  cfg : t.cfg = s.cfg
  devAnswers : t.devAnswers = s.devAnswers

/-- Every block-owned cell at the reset value the spec gives, no cell of RING and PREV specified, no refusal mark
(10_state.md R20, 70_reset_and_hazards.md R281, 60_exceptions.md R245). -/
structure State.BlockIsReset (t : State) : Prop where
  start : t.startCur = 0
  fin : t.endCur = 0
  ovf : t.ovf = 0#32
  astate : t.astate = .idle
  lock : t.lock = .free
  rf : t.rf = true
  rows : ∀ r, t.kr.get r = 0xFF#8
  ring : t.ring = []
  prev : t.prev = []
  mark : t.mark = none

/-! What the audio commands move, for the ordering rules of 20_memory.md R83. -/

/-- Run commands one after the other, in the total order of their transitions (20_memory.md R83), stopping at the first
that does not complete. -/
def runCommands : List Instr → State → Host.Outcome State Fault Refusal
  | [], s => .next s
  | i :: is, s =>
    match exec i s with
    | .next t => runCommands is t
    | .fault r => .fault r
    | .refused r => .refused r

/-- The samples a command pushes. -/
def pushedBy : List Instr → List Sample
  | [] => []
  | i :: is => i.beats ++ pushedBy is

/-- How many samples a PULL delivers in this state: the frames it asks for, or as many samples as are resident. -/
def State.deliveredCount (s : State) (byteLength : BitVec 24) : Nat :=
  min (byteLength.toNat / (s.och.toNat * bytesPerSample s.ofmt)) s.ringSize

/-- The samples a command delivers to the device, in order. -/
def State.deliveredBy (s : State) : Instr → List Sample
  | .pull byteLength => s.resident.take (s.deliveredCount byteLength)
  | .openReq _ _ _ | .push _ | .close | .rdovf | .render | .inval | .encode | .rdrow _ => []

/-- The concatenation of what a run of commands delivers. -/
def deliveredStream : List Instr → State → List Sample
  | [], _ => []
  | i :: is, s =>
    match exec i s with
    | .next t => s.deliveredBy i ++ deliveredStream is t
    | .fault _ => []
    | .refused _ => []

/-- Two states that differ at most in block-owned cells the spec leaves unspecified: ring slots that are not resident
(10_state.md R21), PREV while a full refresh is requested (R30), the obtained format outside A_OPEN (R27), and the
model's count of resets. -/
structure State.Indistinct (s t : State) : Prop where
  rest : { t with ring := s.ring, prev := s.prev, och := s.och, ofmt := s.ofmt, epoch := s.epoch } = s
  resident : s.resident = t.resident
  prev : s.rf = false → ∀ a < Space.size s.cfg .prev, s.prevAt a = t.prevAt a
  format : s.astate = .opened → s.och = t.och ∧ s.ofmt = t.ofmt

/-- When a command meets its preconditions (60_exceptions.md R245, 40_audio_ring.md R150). -/
def State.Legal (s : State) : Instr → Prop
  | .openReq _ ch _ => s.astate = .idle ∧ ch ≠ 0#3
  | .push _ => s.astate = .opened
  | .pull _ => s.astate = .opened
  | .close => s.astate = .opened
  | .rdovf => True
  | .render => s.fbrdy = true
  | .inval => True
  | .encode => s.active = true ∧ s.paused = false → s.cfg.keysInRange
  | .rdrow _ => True

/-- A step that violates no precondition and names no cell that does not exist (60_exceptions.md R245). -/
def State.Safe (s : State) : Prop := ∃ t, step s = .next t ∧ t.mark = none

/-- The state carries no mark, and every step of a run of `k` steps is safe: no violation occurs in it
(60_exceptions.md R245). -/
def State.SafeRun : Nat → State → Prop
  | 0, s => s.mark = none
  | k + 1, s => s.mark = none ∧ ∃ t, step s = .next t ∧ State.SafeRun k t

/-! Fair schedules (20_memory.md R89). -/

/-- The step of an agent that an outside schedule names. -/
def State.stepOf (s : State) (a : Turn) : Host.Outcome State Fault Refusal := step { s with turns := [a] }

/-- The first `k` steps of an endless schedule. -/
def runSchedule (schedule : Nat → Turn) : Nat → State → Host.Outcome State Fault Refusal
  | 0, s => .next s
  | k + 1, s =>
    match runSchedule schedule k s with
    | .next t => t.stepOf (schedule k)
    | .fault r => .fault r
    | .refused r => .refused r

/-- Neither agent is passed over for ever (20_memory.md R89). -/
def WeaklyFair (schedule : Nat → Turn) : Prop :=
  (∀ j, ∃ k, j ≤ k ∧ schedule k = .P) ∧ ∀ j, ∃ k, j ≤ k ∧ schedule k = .C

end Sys2Proof.Machine
end

