-- ==== Sys2Proof/Certificates/Slice0/Obligations.lean ====
section
/-! DEFINITION. The statements for the provers, one per rule or group of rules of spec/. -/

open Sys2Proof Sys2Proof.Machine

/-! Encodings (30_encoding.md). -/

/-- Words written out from R101 and R102, one per format and family and every one of unit A, decode to the command they
stand for. -/
def Obligations.WrittenCommandWordsDecode : Prop :=
  decodeWord .P 0b00000001100100001010110001000100#32 = .ok (.whole (.openReq 44100#20 1#3 .unsigned16)) ∧
  decodeWord .P 0b00000010000000000000000000000011#32 = .ok (.push 3#24) ∧
  decodeWord .C 0b00000011000000000000000000000110#32 = .ok (.whole (.pull 6#24)) ∧
  decodeWord .P 0b00000100000000000000000000000000#32 = .ok (.whole .close) ∧
  decodeWord .P 0b00000101000000000000000000000000#32 = .ok (.whole .rdovf) ∧
  decodeWord .P 0b00010000000000000000000000000000#32 = .ok (.whole .render) ∧
  decodeWord .P 0b00100001000000000000000000000111#32 = .ok (.whole (.rdrow 7#3))

/-- Every well-formed command, with every operand value, is read back from its words and beats, and the rest of the
stream is what follows the last beat (R101, R102, R113). -/
def Obligations.DecodeOfEncodeIsTheCommand : Prop :=
  ∀ (Act : Type) (i : Instr) (rest : List (PortItem Act)), i.wf = true →
    decode i.port (encode i ++ rest) = .ok (i, rest)

/-- Whatever the decoder accepts is the encoding of the well-formed command it gives, on that command's port: no two
streams stand for one command (R100 to R102, R113). -/
def Obligations.AcceptedStreamIsAnEncoding : Prop :=
  ∀ (Act : Type) (p : Port) (items rest : List (PortItem Act)) (i : Instr), decode p items = .ok (i, rest) →
    i.wf = true ∧ i.port = p ∧ items = encode i ++ rest

/-- A word is rejected exactly when it is a reserved encoding of R112: an unassigned opcode, PULL off port C or another
command on it, a non-zero reserved bit of format Z or R, `ch == 0` of OPEN. -/
def Obligations.ReservedWordsAreExactlyTheRejected : Prop :=
  ∀ (p : Port) (w : Word),
    (∃ why, decodeWord p w = .error why) ↔
      w.extractLsb' 24 8 ∉ [0x01#8, 0x02#8, 0x03#8, 0x04#8, 0x05#8, 0x10#8, 0x11#8, 0x20#8, 0x21#8] ∨
      (w.extractLsb' 24 8 = 0x03#8 ∧ p = .P) ∨
      (w.extractLsb' 24 8 ≠ 0x03#8 ∧ p = .C) ∨
      (w.extractLsb' 24 8 ∈ [0x04#8, 0x05#8, 0x10#8, 0x11#8, 0x20#8] ∧ w.extractLsb' 0 24 ≠ 0#24) ∨
      (w.extractLsb' 24 8 = 0x21#8 ∧ w.extractLsb' 3 21 ≠ 0#21) ∨
      (w.extractLsb' 24 8 = 0x01#8 ∧ w.extractLsb' 20 3 = 0#3)

/-! Steps (00_scope.md R5, 20_memory.md R80 to R89). -/

/-- When it is a port's turn and the items at the front of its stream decode, the step is that command's meaning, in the
state in which the command's items and the turn are consumed. Where the meaning is a refusal, the step sets the refusal
mark to it (60_exceptions.md R245). R245 makes no claim about any later state: that the step then goes on with the items
taken off their port, and keeps the other port, RESET and the device's listed answers, is the model's choice, log entry
8; the cells the environment owns are not the block's to write (10_state.md R20). -/
def Obligations.StepRunsDecodedCommand : Prop :=
  (∀ (s : State) (turns : List Turn) (i : Instr) (rest : List (PortItem EnvAction)),
    s.turns = .P :: turns → s.resetIn = false → s.mark = none → s.lock = .free → decode .P s.portP = .ok (i, rest) →
      match exec i { s with turns := turns, portP := rest } with
      | .next t => step s = .next t
      | .fault r => step s = .fault r
      | .refused r => ∃ t, step s = .next t ∧ t.mark = some r ∧ t.turns = turns ∧ t.portP = rest ∧
          t.portC = s.portC ∧ t.resetIn = false ∧ s.SameSurroundings t) ∧
  (∀ (s : State) (turns : List Turn) (i : Instr) (rest : List (PortItem DevAction)),
    s.turns = .C :: turns → s.resetIn = false → s.mark = none → s.lock = .free → decode .C s.portC = .ok (i, rest) →
      match exec i { s with turns := turns, portC := rest } with
      | .next t => step s = .next t
      | .fault r => step s = .fault r
      | .refused r => ∃ t, step s = .next t ∧ t.mark = some r ∧ t.turns = turns ∧ t.portC = rest ∧
          t.portP = s.portP ∧ t.resetIn = false ∧ s.SameSurroundings t)

/-- A placed table word is the very next command, whatever the ports and the schedule hold. That a program is placed
from outside, on the port of its opcode, is the model's choice, log entry 18: the spec gives no loader. -/
def Obligations.PlacedWordIsTheNextCommand : Prop :=
  ∀ (s : State) (nbits w : Nat) (i : Instr), decodeTableWord nbits w = some i →
    match exec i { s with resetIn := false, mark := none, lock := .free } with
    | .next t => step (s.withFetchWord nbits w) = .next t
    | .fault r => step (s.withFetchWord nbits w) = .fault r
    | .refused r => ∃ t, step (s.withFetchWord nbits w) = .next t ∧ t.mark = some r

/-- While RESET is asserted a command at the front of a port is not accepted: the turn passes and nothing else changes
(70_reset_and_hazards.md R280). -/
def Obligations.AssertedResetAcceptsNoCommand : Prop :=
  (∀ (s : State) (turns : List Turn) (w : Word) (rest : List (PortItem EnvAction)),
    s.turns = .P :: turns → s.resetIn = true → s.portP = .word w :: rest → step s = .next { s with turns := turns }) ∧
  (∀ (s : State) (turns : List Turn) (w : Word) (rest : List (PortItem DevAction)),
    s.turns = .C :: turns → s.resetIn = true → s.portC = .word w :: rest → step s = .next { s with turns := turns })

/-- A PUSH, PULL or RDOVF requested while the lock is held waits: its turn passes and its items stay (20_memory.md R89,
40_audio_ring.md R146). The state of a held lock between transitions is the model's, log entry 10. -/
def Obligations.RequestWaitsForHeldLock : Prop :=
  (∀ (s : State) (turns : List Turn) (i : Instr) (rest : List (PortItem EnvAction)),
    s.turns = .P :: turns → s.mark = none → s.lock ≠ .free → decode .P s.portP = .ok (i, rest) →
      ((∃ samples, i = .push samples) ∨ i = .rdovf) → step s = .next { s with turns := turns }) ∧
  (∀ (s : State) (turns : List Turn) (n : BitVec 24) (rest : List (PortItem DevAction)),
    s.turns = .C :: turns → s.mark = none → s.lock ≠ .free → decode .C s.portC = .ok (.pull n, rest) →
      step s = .next { s with turns := turns })

/-- A reserved command word is given no meaning: the refusal mark is set to ReservedEncoding with the decoder's reason
(R112, 60_exceptions.md R241, R245). An OPEN with `ch == 0` outside A_IDLE is OpenNotIdle, the check OPEN's pseudocode
makes first (40_audio_ring.md R140, 60_exceptions.md R247; log entry 19). R245 makes no claim about any later state:
that the step goes on with the word taken off its port, and keeps the other port and the device's listed answers, is the
model's choice, log entry 8; the cells the environment owns are not the block's to write (10_state.md R20). -/
def Obligations.ReservedWordIsRefused : Prop :=
  (∀ (s : State) (turns : List Turn) (w : Word) (rest : List (PortItem EnvAction)) (why : Reject),
    s.turns = .P :: turns → s.resetIn = false → s.mark = none → s.portP = .word w :: rest →
    decodeWord .P w = .error why →
      ∃ t, step s = .next t ∧
        t.mark = some (if why = .zeroChannels ∧ s.astate ≠ .idle then .openNotIdle else .reservedEncoding why) ∧
        t.turns = turns ∧ t.portP = rest ∧ t.portC = s.portC ∧ s.SameSurroundings t) ∧
  (∀ (s : State) (turns : List Turn) (w : Word) (rest : List (PortItem DevAction)) (why : Reject),
    s.turns = .C :: turns → s.resetIn = false → s.mark = none → s.portC = .word w :: rest →
    decodeWord .C w = .error why →
      ∃ t, step s = .next t ∧ t.mark = some (.reservedEncoding why) ∧
        t.turns = turns ∧ t.portC = rest ∧ t.portP = s.portP ∧ s.SameSurroundings t)

/-- What agent P changes between two of its commands is in place for the later command, and nothing else changes: a CUR
byte, a CPL byte, a key flag, each of the five level inputs, a pixel written by someone else; likewise a byte of OUTBUF
that the device fills between two PULLs (00_scope.md R5, 20_memory.md R80, R86, 70_reset_and_hazards.md R288, R290).
The model's own choices in this statement: that it holds under the refusal mark too, where the rest of the state is the
same free values before and after (log entry 8, which calls a comparison of two states under one mark unsafe; the spec
makes no claim there, 60_exceptions.md R245); that agents' actions go on while RESET is asserted (log entry 11); and
that OUTBUF is one space with indices below 2^24 - 1 which the device fills (log entry 16). -/
def Obligations.EnvironmentChangeIsInPlaceForNextCommand : Prop :=
  (∀ (s : State) (turns : List Turn) (rest : List (PortItem EnvAction)), s.turns = .P :: turns →
    (∀ a v, s.portP = .act (.cur a v) :: rest → a < s.cfg.stride * s.cfg.fullH →
      ∃ m, step s = .next { s with turns := turns, portP := rest, cur := m } ∧
        Memory.get? m a = some v ∧ ∀ b, b ≠ a → Memory.get? m b = Memory.get? s.cur b) ∧
    (∀ a v, s.portP = .act (.cpl a v) :: rest → a < s.cfg.fullW * s.cfg.fullH →
      ∃ m, step s = .next { s with turns := turns, portP := rest, cpl := m } ∧
        Memory.get? m a = some v ∧ ∀ b, b ≠ a → Memory.get? m b = Memory.get? s.cpl b) ∧
    (∀ k v, s.portP = .act (.key k v) :: rest → k < s.cfg.maxKeycodes →
      ∃ m, step s = .next { s with turns := turns, portP := rest, keystate := m } ∧
        Memory.get? m k = some v ∧ ∀ b, b ≠ k → Memory.get? m b = Memory.get? s.keystate b) ∧
    (∀ p v, s.portP = .act (.pix p v) :: rest → p < s.cfg.visW * s.cfg.visH →
      ∃ m, step s = .next { s with turns := turns, portP := rest, pixout := m } ∧
        Memory.get? m p = some v ∧ ∀ b, b ≠ p → Memory.get? m b = Memory.get? s.pixout b) ∧
    ∀ v,
      (s.portP = .act (.input .inv v) :: rest → step s = .next { s with turns := turns, portP := rest, inv := v }) ∧
      (s.portP = .act (.input .chroma v) :: rest →
        step s = .next { s with turns := turns, portP := rest, chroma := v }) ∧
      (s.portP = .act (.input .fbrdy v) :: rest →
        step s = .next { s with turns := turns, portP := rest, fbrdy := v }) ∧
      (s.portP = .act (.input .active v) :: rest →
        step s = .next { s with turns := turns, portP := rest, active := v }) ∧
      (s.portP = .act (.input .paused v) :: rest →
        step s = .next { s with turns := turns, portP := rest, paused := v })) ∧
  ∀ (s : State) (turns : List Turn) (rest : List (PortItem DevAction)) (a : Nat) (v : Byte),
    s.turns = .C :: turns → s.portC = .act (.out a v) :: rest → a < 2 ^ 24 - 1 →
      ∃ m, step s = .next { s with turns := turns, portC := rest, outbuf := m } ∧
        Memory.get? m a = some v ∧ ∀ b, b ≠ a → Memory.get? m b = Memory.get? s.outbuf b

/-! Reset (70_reset_and_hazards.md). -/

/-- The reset values the spec gives, and no cell of any space specified (10_state.md R20, 70_reset_and_hazards.md R281). -/
def Obligations.ResetStateHasTheSpecsValues : Prop :=
  State.reset.startCur = 0 ∧ State.reset.endCur = 0 ∧ State.reset.ovf = 0#32 ∧ State.reset.astate = .idle ∧
  State.reset.lock = .free ∧ State.reset.rf = true ∧ (∀ r, State.reset.kr.get r = 0xFF#8) ∧
  State.reset.ring = [] ∧ State.reset.prev = [] ∧ State.reset.cur = [] ∧ State.reset.cpl = [] ∧
  State.reset.pixout = [] ∧ State.reset.keystate = [] ∧ State.reset.outbuf = []

/-- Asserting RESET, or releasing it, gives every block-owned cell its reset value, clears the refusal mark
(60_exceptions.md R245) and leaves the environment's cells, the device's cells, the level inputs and the parameters as
they were (R280, R281). Where the spec gives no value (RING, PREV) no cell is specified afterwards; `och` and `ofmt` are
not stated here. The model's own choices in this statement: that the cells are reset at assertion already and that port
items survive but for a PUSH that awaits beats when RESET rises, which is gone (log entry 11); that responses, requests
and the device's listed answers survive (log entries 11 and 17). -/
def Obligations.ResetEventRestoresTheBlock : Prop :=
  ∀ (s : State) (turns : List Turn) (level : Bool), s.turns = .rst level :: turns → (level = true ∨ s.resetIn = true) →
    ∃ t, step s = .next t ∧ t.resetIn = level ∧ t.turns = turns ∧ t.BlockIsReset ∧ s.SameSurroundings t ∧
      t.pixout = s.pixout ∧ t.outbuf = s.outbuf ∧ t.portC = s.portC ∧ t.responses = s.responses ∧
      t.requests = s.requests ∧
      (level = true ∧ s.resetIn = false ∧ decode .P s.portP = .error .incomplete → t.portP = []) ∧
      (¬ (level = true ∧ s.resetIn = false ∧ decode .P s.portP = .error .incomplete) → t.portP = s.portP)

/-- The invariant holds right after reset. It covers the parameters of reset, log entry 1. -/
def Obligations.ResetMeetsTheInvariant : Prop := State.reset.Inv

/-- Every step keeps the invariant: parameters legal, spaces canonical and within their bounds, and, while no refusal mark
stands (60_exceptions.md R245), cursors in range, every resident slot written, the lock FREE, at least one channel in
A_OPEN, an empty ring in A_IDLE, PREV specified once the refresh flag is clear, bits 7:5 of every row set. -/
def Obligations.StepKeepsTheInvariant : Prop :=
  ∀ s t : State, s.Inv → step s = .next t → t.Inv

/-- Nothing writes the parameters, the key map among them (10_state.md R37). -/
def Obligations.StepKeepsTheParameters : Prop :=
  ∀ s t : State, step s = .next t → t.cfg = s.cfg

/-! The machine as a whole. -/

/-- Which commands may change which cell (10_state.md R20 to R38, R43): every other command leaves it as it is, and no
command changes a cell the environment owns. -/
def Obligations.EachCellIsWrittenOnlyByItsCommands : Prop :=
  ∀ (i : Instr) (s t : State), exec i s = .next t →
    ((∀ samples, i ≠ .push samples) → t.ring = s.ring ∧ t.endCur = s.endCur ∧ t.ovf = s.ovf) ∧
    ((∀ samples, i ≠ .push samples) → (∀ n, i ≠ .pull n) → t.startCur = s.startCur ∧ t.lock = s.lock) ∧
    ((∀ n, i ≠ .pull n) → t.outbuf = s.outbuf) ∧
    ((∀ rate ch fmt, i ≠ .openReq rate ch fmt) →
      t.och = s.och ∧ t.ofmt = s.ofmt ∧ t.devAnswers = s.devAnswers ∧ t.requests = s.requests) ∧
    ((∀ rate ch fmt, i ≠ .openReq rate ch fmt) → i ≠ .close → t.astate = s.astate) ∧
    (i ≠ .render → t.prev = s.prev ∧ t.pixout = s.pixout) ∧
    (i ≠ .render → i ≠ .inval → t.rf = s.rf) ∧
    (i ≠ .encode → t.kr = s.kr) ∧
    ((∀ rate ch fmt, i ≠ .openReq rate ch fmt) → i ≠ .rdovf → (∀ row, i ≠ .rdrow row) → t.responses = s.responses) ∧
    t.cur = s.cur ∧ t.cpl = s.cpl ∧ t.keystate = s.keystate ∧ t.inv = s.inv ∧ t.chroma = s.chroma ∧
    t.fbrdy = s.fbrdy ∧ t.active = s.active ∧ t.paused = s.paused ∧ t.mark = s.mark

/-- A command completes exactly when its precondition holds; there is no other way to stop (60_exceptions.md R240, R245,
40_audio_ring.md R150). -/
def Obligations.CommandCompletesExactlyWhenLegal : Prop :=
  ∀ (i : Instr) (s : State), (∃ t, exec i s = .next t) ↔ s.Legal i

/-- The illegal audio commands are refused under the names of the table of R150, and OPEN with `ch == 0` in the order of
its pseudocode (R140, 60_exceptions.md R247). -/
def Obligations.IllegalAudioCommandIsRefusedByName : Prop :=
  ∀ s : State,
    (∀ rate ch fmt, s.astate ≠ .idle → exec (.openReq rate ch fmt) s = .refused .openNotIdle) ∧
    (∀ rate fmt, s.astate = .idle → exec (.openReq rate 0#3 fmt) s = .refused (.reservedEncoding .zeroChannels)) ∧
    (∀ samples, s.astate ≠ .opened → exec (.push samples) s = .refused .ringNotOpen) ∧
    (∀ n, s.astate ≠ .opened → exec (.pull n) s = .refused .ringNotOpen) ∧
    (s.astate ≠ .opened → exec .close s = .refused .closeNotOpen)

/-- A key map with a code out of range refuses an ENCODE whose gate is open (60_exceptions.md R241 V5). -/
def Obligations.KeyCodeOutOfRangeIsRefused : Prop :=
  ∀ s : State,
    s.active = true → s.paused = false → (∃ row ∈ s.cfg.keymap, ∃ slot ∈ row, ∃ k ∈ slot, s.cfg.maxKeycodes ≤ k) →
      exec .encode s = .refused .keyCodeOutOfRange

/-- No block-owned cell whose value the spec leaves unspecified can influence an output (70_reset_and_hazards.md R281): a
command takes two states that differ in such cells alone to two that do again, with the same responses, output bytes
and pixels. -/
def Obligations.UnspecifiedCellsInfluenceNothing : Prop :=
  ∀ (i : Instr) (s s' t : State), s.cfg.wf → s.startCur < s.cfg.n → s.endCur < s.cfg.n → s.Indistinct s' →
    exec i s = .next t → ∃ t', exec i s' = .next t' ∧ t.Indistinct t'

/-- PULL commutes with RENDER, INVAL, ENCODE and RDROW (20_memory.md R82). -/
def Obligations.PullCommutesWithTheOtherUnits : Prop :=
  ∀ (i : Instr) (n : BitVec 24) (s t u : State),
    (i = .render ∨ i = .inval ∨ i = .encode ∨ ∃ row, i = .rdrow row) →
    exec (.pull n) s = .next t → exec i t = .next u →
    ∃ v, exec i s = .next v ∧ exec (.pull n) v = .next u

/-- Pause and disable affect ENCODE alone (60_exceptions.md R254): while either holds ENCODE leaves the whole state as it
is; every other command that completes does the same whatever ACTIVE and PAUSED are. -/
def Obligations.PauseAffectsEncodeAlone : Prop :=
  (∀ s : State, (s.active = false ∨ s.paused = true) → exec .encode s = .next s) ∧
  (∀ (i : Instr) (s t : State) (active paused : Bool), i ≠ .encode → exec i s = .next t →
    exec i { s with active := active, paused := paused } = .next { t with active := active, paused := paused })

/-! Unit A (40_audio_ring.md). -/

/-- OPEN in A_IDLE passes its operands to the device unchanged (30_encoding.md R111) and takes its answer: on failure it responds `0x80000000` and changes nothing else of the block;
on success it stores the obtained channel count and format, enters A_OPEN and responds with them; where State lists no
answer the answer is a free one, and one of these two happens (R140, 30_encoding.md R104). -/
def Obligations.OpenTakesTheDevicesAnswer : Prop :=
  ∀ (s : State) (rate : BitVec 20) (ch : BitVec 3) (fmt : SampleFormat), s.astate = .idle → ch ≠ 0#3 →
    (∀ rest, s.devAnswers = .fail :: rest →
      exec (.openReq rate ch fmt) s =
        .next { s with
          devAnswers := rest, requests := s.requests ++ [⟨rate, ch, fmt⟩]
          responses := s.responses ++ [0x80000000#32] }) ∧
    (∀ (c : Fin 7) (f : SampleFormat) rest, s.devAnswers = .ok c f :: rest →
      exec (.openReq rate ch fmt) s =
        .next { s with
          devAnswers := rest, requests := s.requests ++ [⟨rate, ch, fmt⟩]
          och := BitVec.ofNat 3 (c.val + 1), ofmt := f, astate := .opened
          responses := s.responses ++
            [BitVec.ofNat 32 ((if f = .unsigned16 then 2 ^ 23 else 0) + (c.val + 1) * 2 ^ 20)] }) ∧
    (s.devAnswers = [] → ∃ t, exec (.openReq rate ch fmt) s = .next t ∧
      (t = { s with
          draws := s.draws + 1, requests := s.requests ++ [⟨rate, ch, fmt⟩]
          responses := s.responses ++ [0x80000000#32] } ∨
       ∃ (c : Fin 7) (f : SampleFormat), t = { s with
          draws := s.draws + 1, requests := s.requests ++ [⟨rate, ch, fmt⟩]
          och := BitVec.ofNat 3 (c.val + 1), ofmt := f, astate := .opened
          responses := s.responses ++
            [BitVec.ofNat 32 ((if f = .unsigned16 then 2 ^ 23 else 0) + (c.val + 1) * 2 ^ 20)] }))

/-- The request goes to the device unchanged (30_encoding.md R111) and influences nothing else (R140). -/
def Obligations.OpenRequestInfluencesNothing : Prop :=
  ∀ (s t : State) (rate rate' : BitVec 20) (ch ch' : BitVec 3) (fmt fmt' : SampleFormat), ch' ≠ 0#3 →
    exec (.openReq rate ch fmt) s = .next t →
    t.requests = s.requests ++ [⟨rate, ch, fmt⟩] ∧
    exec (.openReq rate' ch' fmt') s = .next { t with requests := s.requests ++ [⟨rate', ch', fmt'⟩] }

/-- PUSH of one sample is `push1`: the slot `end` names takes the sample, `end` advances, and where it then meets `start`
the oldest sample is dropped and counted; no other slot changes (R142). -/
def Obligations.PushOfOneSample : Prop :=
  ∀ (s : State) (v : Sample), s.astate = .opened →
    ∃ m, Memory.get? m s.endCur = some v ∧ (∀ a, a ≠ s.endCur → Memory.get? m a = Memory.get? s.ring a) ∧
      exec (.push [v]) s =
        if (s.endCur + 1) % s.cfg.n = s.startCur then
          .next { s with
            ring := m, endCur := (s.endCur + 1) % s.cfg.n, startCur := (s.startCur + 1) % s.cfg.n
            ovf := s.ovf + 1#32, lock := .free }
        else .next { s with ring := m, endCur := (s.endCur + 1) % s.cfg.n, lock := .free }

/-- The slot a PUSH writes first is no resident one; after a collision that slot and the resident ones are as before but
for the oldest, whose slot is the next to be written (R142, 10_state.md R24). -/
def Obligations.PushNeverOverwritesAResidentSample : Prop :=
  ∀ (s : State) (v : Sample), s.startCur < s.cfg.n → s.endCur < s.cfg.n → s.astate = .opened →
    (∀ j < s.ringSize, (s.startCur + j) % s.cfg.n ≠ s.endCur) ∧
    ∃ t, exec (.push [v]) s = .next t ∧
      (∀ j < s.ringSize, t.ringAt ((s.startCur + j) % s.cfg.n) = s.ringAt ((s.startCur + j) % s.cfg.n)) ∧
      (s.ringSize = s.cfg.n - 1 → t.endCur = s.startCur ∧ t.ringSize = s.ringSize ∧ t.ovf = s.ovf + 1#32) ∧
      (s.ringSize < s.cfg.n - 1 → t.startCur = s.startCur ∧ t.ringSize = s.ringSize + 1 ∧ t.ovf = s.ovf)

/-- PUSH works sample by sample: a burst is its first sample, then the others, one slot per collision (R148). -/
def Obligations.BurstIsItsSamplesOneByOne : Prop :=
  ∀ (s t : State) (v : Sample) (vs : List Sample),
    exec (.push (v :: vs)) s = .next t ↔ ∃ u, exec (.push [v]) s = .next u ∧ exec (.push vs) u = .next t

/-- PUSH of any burst in closed form (R141): the cursors and the counter, the resident samples, and the frame; it is
refused outside A_OPEN. -/
def Obligations.PushOfABurst : Prop :=
  (∀ (s : State) (samples : List Sample), s.astate ≠ .opened → exec (.push samples) s = .refused .ringNotOpen) ∧
  ∀ (s : State) (samples : List Sample), s.startCur < s.cfg.n → s.endCur < s.cfg.n → s.astate = .opened →
    ∃ m, exec (.push samples) s = .next { s with
        ring := m
        endCur := (s.endCur + samples.length) % s.cfg.n
        startCur := (s.startCur + (s.ringSize + samples.length - (s.cfg.n - 1))) % s.cfg.n
        ovf := s.ovf + BitVec.ofNat 32 (s.ringSize + samples.length - (s.cfg.n - 1))
        lock := .free } ∧
      (∀ a, (∀ j < samples.length, a ≠ (s.endCur + j) % s.cfg.n) → Memory.get? m a = Memory.get? s.ring a) ∧
      ∀ t, exec (.push samples) s = .next t →
        t.ringSize = min (s.ringSize + samples.length) (s.cfg.n - 1) ∧
        t.resident =
          (s.resident ++ samples).drop ((s.resident ++ samples).length - min (s.ringSize + samples.length) (s.cfg.n - 1))

/-- Pushing `CAP + k` samples into an empty ring leaves the last `CAP` of them, in order, and counts `k` (R149 item 2). -/
def Obligations.OverfilledRingKeepsTheMostRecent : Prop :=
  ∀ (s : State) (samples : List Sample) (k : Nat), s.startCur < s.cfg.n → s.endCur = s.startCur → s.astate = .opened →
    samples.length = s.cfg.n - 1 + k →
    ∃ t, exec (.push samples) s = .next t ∧ t.resident = samples.drop k ∧ t.ovf = s.ovf + BitVec.ofNat 32 k

/-- PULL to a mono 16-bit device (R143, 20_memory.md R62): `d = min(byteLength div 2, size)` samples leave, low byte then
high byte; no other output byte and no other cell changes; it is refused outside A_OPEN. -/
def Obligations.PullToMono16 : Prop :=
  (∀ (s : State) (n : BitVec 24), s.astate ≠ .opened → exec (.pull n) s = .refused .ringNotOpen) ∧
  ∀ (s : State) (n : BitVec 24), s.startCur < s.cfg.n → s.endCur < s.cfg.n → s.astate = .opened → s.och = 1#3 →
    s.ofmt = .unsigned16 →
    ∃ m, exec (.pull n) s = .next { s with
        startCur := (s.startCur + min (n.toNat / 2) s.ringSize) % s.cfg.n, outbuf := m, lock := .free } ∧
      (∀ j < min (n.toNat / 2) s.ringSize,
        Memory.get? m (2 * j) = some ((s.ringAt ((s.startCur + j) % s.cfg.n)).extractLsb' 0 8) ∧
        Memory.get? m (2 * j + 1) = some ((s.ringAt ((s.startCur + j) % s.cfg.n)).extractLsb' 8 8)) ∧
      (∀ a, 2 * min (n.toNat / 2) s.ringSize ≤ a → Memory.get? m a = Memory.get? s.outbuf a)

/-- PULL to a device of any obtained format (R144): one sample a frame, in every channel, low byte then high byte, or the
high byte alone for unsigned8. The layout is the spec's decision D7, log entry 9. -/
def Obligations.PullToAnyFormat : Prop :=
  ∀ (s : State) (n : BitVec 24) (fb d : Nat), s.startCur < s.cfg.n → s.endCur < s.cfg.n → s.astate = .opened →
    s.och ≠ 0#3 → fb = s.och.toNat * (if s.ofmt = .unsigned16 then 2 else 1) → d = min (n.toNat / fb) s.ringSize →
    ∃ m, exec (.pull n) s = .next { s with
        startCur := (s.startCur + d) % s.cfg.n, outbuf := m, lock := .free } ∧
      (∀ i < d, ∀ c < s.och.toNat,
        (s.ofmt = .unsigned16 →
          Memory.get? m (i * fb + 2 * c) = some ((s.ringAt ((s.startCur + i) % s.cfg.n)).extractLsb' 0 8) ∧
          Memory.get? m (i * fb + 2 * c + 1) = some ((s.ringAt ((s.startCur + i) % s.cfg.n)).extractLsb' 8 8)) ∧
        (s.ofmt = .unsigned8 →
          Memory.get? m (i * fb + c) = some ((s.ringAt ((s.startCur + i) % s.cfg.n)).extractLsb' 8 8))) ∧
      (∀ a, d * fb ≤ a → Memory.get? m a = Memory.get? s.outbuf a)

/-- No PULL writes an output byte at or past `byteLength`, nor the odd last byte of 16-bit output (20_memory.md R66,
R72). -/
def Obligations.PullStaysInsideTheDevicesBuffer : Prop :=
  ∀ (s t : State) (n : BitVec 24), s.startCur < s.cfg.n → s.endCur < s.cfg.n → exec (.pull n) s = .next t →
    (∀ a, n.toNat ≤ a → Memory.get? t.outbuf a = Memory.get? s.outbuf a) ∧
    (s.ofmt = .unsigned16 → n.toNat % 2 = 1 →
      Memory.get? t.outbuf (n.toNat - 1) = Memory.get? s.outbuf (n.toNat - 1))

/-- PULL on an empty ring changes no cursor, no slot and no output byte (R149 item 3). -/
def Obligations.PullOnEmptyRingChangesNothing : Prop :=
  ∀ (s : State) (n : BitVec 24), s.astate = .opened → s.endCur = s.startCur → s.lock = .free →
    exec (.pull n) s = .next s

/-- What is pushed into an empty ring and fits comes out of the next PULL unmodified, in order, low byte first, and
leaves the ring empty (R149 item 1). -/
def Obligations.PushedSamplesComeOutUnmodified : Prop :=
  ∀ (s : State) (samples : List Sample) (n : BitVec 24), s.startCur < s.cfg.n → s.endCur = s.startCur →
    s.astate = .opened → s.och = 1#3 → s.ofmt = .unsigned16 → samples.length ≤ s.cfg.n - 1 →
    n.toNat = 2 * samples.length →
    ∃ t u, exec (.push samples) s = .next t ∧ exec (.pull n) t = .next u ∧ u.ovf = s.ovf ∧ u.endCur = u.startCur ∧
      ∀ (j : Nat) (v : Sample), samples[j]? = some v →
        Memory.get? u.outbuf (2 * j) = some (v.extractLsb' 0 8) ∧
        Memory.get? u.outbuf (2 * j + 1) = some (v.extractLsb' 8 8)

/-- FIFO over any run of commands (20_memory.md R83): what the PULLs deliver, followed by what is still resident, is a
subsequence of what was resident before, followed by what the PUSHes pushed, in order. -/
def Obligations.DeliveredStreamIsASubsequenceOfThePushed : Prop :=
  ∀ (commands : List Instr) (s t : State), s.startCur < s.cfg.n → s.endCur < s.cfg.n →
    runCommands commands s = .next t →
    (deliveredStream commands s ++ t.resident).Sublist (s.resident ++ pushedBy commands)

/-- Loss only by collision over any run of commands (20_memory.md R83): every sample that was resident or pushed is
delivered, still resident, or counted in `ovf`, and no other command moves the counter. -/
def Obligations.EverySampleIsDeliveredResidentOrCounted : Prop :=
  ∀ (commands : List Instr) (s t : State), s.startCur < s.cfg.n → s.endCur < s.cfg.n →
    runCommands commands s = .next t →
    ∃ dropped, s.resident.length + (pushedBy commands).length =
        (deliveredStream commands s).length + t.resident.length + dropped ∧
      t.ovf = s.ovf + BitVec.ofNat 32 dropped

/-- CLOSE changes the audio state alone (R145). -/
def Obligations.CloseChangesTheAudioStateAlone : Prop :=
  ∀ s : State, s.astate = .opened → exec .close s = .next { s with astate := .closed }

/-- Only reset leaves A_CLOSED: no command changes it (R145, 10_state.md R26). -/
def Obligations.NoCommandLeavesClosed : Prop :=
  ∀ (i : Instr) (s t : State), s.astate = .closed → exec i s = .next t → t.astate = .closed

/-- RDOVF responds with the counter, clears nothing and is legal in every state (R146). -/
def Obligations.ReadOverflowRespondsTheCounter : Prop :=
  ∀ s : State, exec .rdovf s = .next { s with responses := s.responses ++ [s.ovf] }

/-! Unit R (41_screen_diff.md). -/

/-- RENDER completes when the buffers are ready; it changes PIXOUT, PREV and RF alone. Every pixel of a visible cell that
is not skipped takes its expansion; every other index keeps its value; every byte of PREV takes the byte of CUR. With
the buffers not ready it is refused. Its word on port P is `0x10000000` (R180). -/
def Obligations.RenderWritesThePixelsOfCellsNotSkipped : Prop :=
  decodeWord .P 0x10000000#32 = .ok (.whole .render) ∧
  (∀ s : State, s.fbrdy = false → exec .render s = .refused .buffersNotReady) ∧
  ∀ s : State, s.cfg.wf → s.fbrdy = true →
    ∃ px pv, exec .render s = .next { s with pixout := px, prev := pv, rf := false } ∧
      (∀ y < s.cfg.visH, ∀ cx < s.cfg.visW / 8,
        ¬ (s.curAt (s.cfg.cellAddr y cx) = s.prevAt (s.cfg.cellAddr y cx) ∧ s.rf = false ∧ s.chroma = false) →
        ∀ k < 8, Memory.get? px (y * s.cfg.visW + (8 * cx + k)) =
          some (if s.chroma then
              Config.chromaPixel ((s.curAt (s.cfg.cellAddr y cx)).getLsbD (7 - k)) s.inv
                (s.cplAt (s.cfg.colourAddr (8 * cx + k) y))
            else if xor ((s.curAt (s.cfg.cellAddr y cx)).getLsbD (7 - k)) s.inv then s.cfg.pix1 else s.cfg.pix0)) ∧
      (∀ p, (∀ y < s.cfg.visH, ∀ cx < s.cfg.visW / 8,
          ¬ (s.curAt (s.cfg.cellAddr y cx) = s.prevAt (s.cfg.cellAddr y cx) ∧ s.rf = false ∧ s.chroma = false) →
          ∀ k < 8, p ≠ y * s.cfg.visW + (8 * cx + k)) →
        Memory.get? px p = Memory.get? s.pixout p) ∧
      (∀ a < s.cfg.stride * s.cfg.fullH, Memory.get? pv a = some (s.curAt a))

/-- The visible cells are where R69 puts them: byte `(y + YOFS) * STRIDE + XOFS/8 + cx`, inside the padded buffer, and
the colour entry and pixel are where R70 and R71 put them, inside their spaces (20_memory.md R69 to R72). -/
def Obligations.VisibleAddressesAreInRange : Prop :=
  ∀ (c : Config) (y cx k : Nat), c.wf → y < c.visH → cx < c.visW / 8 → k < 8 →
    c.cellAddr y cx = (y + c.yOfs) * (c.fullW / 8) + c.xOfs / 8 + cx ∧
    c.cellAddr y cx < Space.size c .cur ∧
    c.colourAddr (8 * cx + k) y = (y + c.yOfs) * c.fullW + c.xOfs + (8 * cx + k) ∧
    c.colourAddr (8 * cx + k) y < Space.size c .cpl ∧
    c.pixelAddr (8 * cx + k) y = y * c.visW + (8 * cx + k) ∧
    c.pixelAddr (8 * cx + k) y < Space.size c .pixout

/-- After RENDER every byte of PREV, border included, equals the byte of CUR (R184). -/
def Obligations.RenderRebaselinesTheWholeFrame : Prop :=
  ∀ s t : State, exec .render s = .next t →
    ∀ a < Space.size s.cfg .prev, Memory.get? t.prev a = some (s.curAt a) ∧ t.curAt a = s.curAt a

/-- RENDER ends with RF clear, whether or not it was set; so an INVAL forces exactly one full pass, the next RENDER: it
writes every visible pixel with the expansion of its bit, and with chroma off the RENDER after it writes none (R185). -/
def Obligations.RenderClearsTheRefreshFlag : Prop :=
  (∀ s : State, s.fbrdy = true → ∃ t, exec .render s = .next t ∧ t.rf = false) ∧
  ∀ s : State, s.cfg.wf → s.fbrdy = true →
    ∃ u v, exec .inval s = .next u ∧ u.rf = true ∧ exec .render u = .next v ∧ v.rf = false ∧
      (∀ y < s.cfg.visH, ∀ x < s.cfg.visW,
        Memory.get? v.pixout (y * s.cfg.visW + x) =
          some (if s.chroma then
              Config.chromaPixel ((s.curAt (s.cfg.cellAddr y (x / 8))).getLsbD (7 - x % 8)) s.inv
                (s.cplAt ((y + s.cfg.yOfs) * s.cfg.fullW + s.cfg.xOfs + x))
            else if xor ((s.curAt (s.cfg.cellAddr y (x / 8))).getLsbD (7 - x % 8)) s.inv then s.cfg.pix1
            else s.cfg.pix0)) ∧
      (s.chroma = false → ∃ w, exec .render v = .next w ∧ w.pixout = v.pixout)

/-- Identical frames, no refresh, no chroma: RENDER writes no pixel (R189 item 1). -/
def Obligations.IdenticalFramesWriteNoPixel : Prop :=
  ∀ s : State, s.fbrdy = true → s.rf = false → s.chroma = false →
    (∀ y < s.cfg.visH, ∀ cx < s.cfg.visW / 8, s.curAt (s.cfg.cellAddr y cx) = s.prevAt (s.cfg.cellAddr y cx)) →
    ∃ t, exec .render s = .next t ∧ t.pixout = s.pixout

/-- A second RENDER of the same frame, chroma off, writes no pixel (R189 items 1, 2, 4). -/
def Obligations.SecondRenderOfSameFrameWritesNothing : Prop :=
  ∀ s t : State, s.cfg.wf → s.chroma = false → exec .render s = .next t → exec .render t = .next t

/-- After a RENDER that began with RF set or chroma on, every visible pixel is the expansion of its bit (R189 item 5). -/
def Obligations.FullRefreshRedrawsEveryVisiblePixel : Prop :=
  ∀ s : State, s.cfg.wf → s.fbrdy = true → (s.rf = true ∨ s.chroma = true) →
    ∃ t, exec .render s = .next t ∧
      ∀ y < s.cfg.visH, ∀ x < s.cfg.visW,
        Memory.get? t.pixout (y * s.cfg.visW + x) =
          some (if s.chroma then
              Config.chromaPixel ((s.curAt (s.cfg.cellAddr y (x / 8))).getLsbD (7 - x % 8)) s.inv
                (s.cplAt ((y + s.cfg.yOfs) * s.cfg.fullW + s.cfg.xOfs + x))
            else if xor ((s.curAt (s.cfg.cellAddr y (x / 8))).getLsbD (7 - x % 8)) s.inv then s.cfg.pix1
            else s.cfg.pix0)

/-- With INV the other way each pixel written is the other one of PIX0 and PIX1, and the same pixels are written (R181,
R182, R189 item 3). -/
def Obligations.InvertComplementsEachWrittenPixel : Prop :=
  ∀ s t : State, s.cfg.wf → s.chroma = false → exec .render s = .next t →
    ∃ u, exec .render { s with inv := !s.inv } = .next u ∧
      ∀ p, (Memory.get? t.pixout p = Memory.get? s.pixout p ∧ Memory.get? u.pixout p = Memory.get? s.pixout p) ∨
        (Memory.get? t.pixout p = some s.cfg.pix0 ∧ Memory.get? u.pixout p = some s.cfg.pix1) ∨
        (Memory.get? t.pixout p = some s.cfg.pix1 ∧ Memory.get? u.pixout p = some s.cfg.pix0)

/-- What a border byte of CUR holds changes no pixel, in this RENDER or the next (R187). -/
def Obligations.BorderBytesAreNeverDrawn : Prop :=
  ∀ (s t : State) (cur' : Memory Byte), s.cfg.wf →
    (∀ y < s.cfg.visH, ∀ cx < s.cfg.visW / 8,
      State.curAt { s with cur := cur' } (s.cfg.cellAddr y cx) = s.curAt (s.cfg.cellAddr y cx)) →
    exec .render s = .next t →
    ∃ t', exec .render { s with cur := cur' } = .next t' ∧ t'.pixout = t.pixout ∧
      ∀ u, exec .render t = .next u → ∃ u', exec .render t' = .next u' ∧ u'.pixout = u.pixout

/-- With chroma off no colour entry matters (R181, R183). -/
def Obligations.MonochromeRenderIgnoresTheColourPlane : Prop :=
  ∀ (s t : State) (cpl' : Memory Byte), s.chroma = false → exec .render s = .next t →
    exec .render { s with cpl := cpl' } = .next { t with cpl := cpl' }

/-- INVAL sets RF and nothing else, in every state, and twice is once; its word on port P is `0x11000000` (R186). -/
def Obligations.InvalidateSetsTheRefreshFlag : Prop :=
  decodeWord .P 0x11000000#32 = .ok (.whole .inval) ∧
  ∀ s : State, exec .inval s = .next { s with rf := true } ∧
    exec .inval { s with rf := true } = .next { s with rf := true }

/-! Unit K (42_key_matrix.md). -/

/-- ENCODE with the gate open writes all eight rows and nothing else: bit `j` of row `r` is 0 exactly when a key code of
slot `(r, j)` is pressed, bits 7:5 are 1. With the gate closed it changes nothing at all. Its word on port P is `0x20000000` (R210 to R212). -/
def Obligations.EncodeLatchesTheKeysWhileTheGateIsOpen : Prop :=
  decodeWord .P 0x20000000#32 = .ok (.whole .encode) ∧
  (∀ s : State, ¬ (s.active = true ∧ s.paused = false) → exec .encode s = .next s) ∧
  ∀ s : State, s.active = true → s.paused = false → s.cfg.keysInRange →
    ∃ k, exec .encode s = .next { s with kr := k } ∧
      ∀ r : BitVec 3, (k.get r).extractLsb' 5 3 = 0b111#3 ∧
        ∀ j < 5, ((k.get r).getLsbD j = false ↔ ∃ code ∈ s.cfg.slot r j, s.keyAt code = true)

/-- No mapped key pressed gives `0xFF` in every row; one key, mapped to slot (0, 0) alone, gives `0xFE` in row 0 and
`0xFF` elsewhere (R216 items 1, 2). -/
def Obligations.NoKeyAndOneKeyRows : Prop :=
  ∀ (s : State) (key : Nat), s.active = true → s.paused = false → s.cfg.wf →
    ((∀ r j, ∀ code ∈ s.cfg.slot r j, s.keyAt code = false) →
      ∃ t, exec .encode s = .next t ∧ ∀ r, t.kr.get r = 0xFF#8) ∧
    ((∀ code < s.cfg.maxKeycodes, s.keyAt code = true ↔ code = key) → key ∈ s.cfg.slot 0#3 0 →
      (∀ r j, key ∈ s.cfg.slot r j → r = 0#3 ∧ j = 0) →
      ∃ t, exec .encode s = .next t ∧ t.kr.get 0#3 = 0xFE#8 ∧ ∀ r, r ≠ 0#3 → t.kr.get r = 0xFF#8)

/-- A row depends on KEYSTATE only through the slots of that row (R215). -/
def Obligations.RowDependsOnItsOwnSlots : Prop :=
  ∀ (s t t' : State) (keys : Memory Bool) (r : BitVec 3),
    (∀ j < 5, ∀ code ∈ s.cfg.slot r j, State.keyAt { s with keystate := keys } code = s.keyAt code) →
    exec .encode s = .next t → exec .encode { s with keystate := keys } = .next t' → t'.kr.get r = t.kr.get r

/-- ENCODE twice with the same keys is ENCODE once (R216 item 5). -/
def Obligations.EncodeIsIdempotent : Prop :=
  ∀ s t : State, exec .encode s = .next t → exec .encode t = .next t

/-- RDROW responds with the stored row zero-extended and has no side effect (R214). -/
def Obligations.ReadRowRespondsTheStoredRow : Prop :=
  ∀ s : State,
    exec (.rdrow 0#3) s = .next { s with responses := s.responses ++ [s.kr.r0.setWidth 32] } ∧
    exec (.rdrow 1#3) s = .next { s with responses := s.responses ++ [s.kr.r1.setWidth 32] } ∧
    exec (.rdrow 2#3) s = .next { s with responses := s.responses ++ [s.kr.r2.setWidth 32] } ∧
    exec (.rdrow 3#3) s = .next { s with responses := s.responses ++ [s.kr.r3.setWidth 32] } ∧
    exec (.rdrow 4#3) s = .next { s with responses := s.responses ++ [s.kr.r4.setWidth 32] } ∧
    exec (.rdrow 5#3) s = .next { s with responses := s.responses ++ [s.kr.r5.setWidth 32] } ∧
    exec (.rdrow 6#3) s = .next { s with responses := s.responses ++ [s.kr.r6.setWidth 32] } ∧
    exec (.rdrow 7#3) s = .next { s with responses := s.responses ++ [s.kr.r7.setWidth 32] }

/-- Every row read responds with a value in `0xE0 .. 0xFF` in a state that meets the invariant on the rows (R214, R216
item 4). -/
def Obligations.ReadRowResponseIsInRange : Prop :=
  ∀ (s : State) (row : BitVec 3), s.RowsOk →
    ∃ w, exec (.rdrow row) s = .next { s with responses := s.responses ++ [w] } ∧ 0xE0#32 ≤ w ∧ w ≤ 0xFF#32

/-! The cursors' width, the refusal mark, abandonment and fairness. -/

/-- `WCUR` is `ceil(log2(N))`, and a cursor in `0 .. N-1` is a register of that width (00_scope.md R6, 10_state.md R20,
R22, R23). That the model keeps it as a number is log entry 20. -/
def Obligations.CursorsAreRegistersOfWidthWcur : Prop :=
  (∀ c : Config, 2 ≤ c.n → 2 ^ (c.wcur - 1) < c.n ∧ c.n ≤ 2 ^ c.wcur) ∧
  ∀ s : State, s.startCur < s.cfg.n → s.endCur < s.cfg.n →
    s.startReg.toNat = s.startCur ∧ s.endReg.toNat = s.endCur

/-- The refusal mark is cleared by reset alone, and no command has a meaning while it stands (60_exceptions.md R245). That
a step refuses a command it meets then is log entry 8. -/
def Obligations.RefusalMarkStandsUntilReset : Prop :=
  (∀ (s t : State) (r : Refusal), s.mark = some r → step s = .next t →
    t.mark = some r ∨
    (t.mark = none ∧ ((∃ rest, s.turns = .rst true :: rest) ∨ (∃ onP onC rest, s.turns = .rstDuring onP onC :: rest) ∨
      (s.resetIn = true ∧ ∃ rest, s.turns = .rst false :: rest)))) ∧
  (∀ (s : State) (r : Refusal) (turns : List Turn) (w : Word) (rest : List (PortItem EnvAction)),
    s.mark = some r → s.turns = .P :: turns → s.resetIn = false → s.portP = .word w :: rest → step s = .refused r) ∧
  (∀ (s : State) (r : Refusal) (turns : List Turn) (w : Word) (rest : List (PortItem DevAction)),
    s.mark = some r → s.turns = .C :: turns → s.resetIn = false → s.portC = .word w :: rest → step s = .refused r)

/-- RESET that rises during a command abandons it: the command is gone, the block is in the reset state, nothing was
answered or asked, and the cells it does not write are as before; the device-owned cells a RENDER or a PULL may have
written hold nothing specified (70_reset_and_hazards.md R280). A command on each port can be under way and both are
abandoned, but beside a PUSH or RDOVF, which holds the lock (20_memory.md R81), a PULL waits and stays on its port. A
PUSH that awaits beats is abandoned whatever is under way on port C. What becomes of the commands' items and of the
device's cells is log entry 11. -/
def Obligations.ResetDuringAnOperationAbandonsIt : Prop :=
  (∀ (s : State) (turns : List Turn) (i : Instr) (rest : List (PortItem EnvAction)),
    s.turns = .rstDuring true false :: turns → s.resetIn = false → s.mark = none → s.lock = .free →
    decode .P s.portP = .ok (i, rest) →
      ∃ t, step s = .next t ∧ t.resetIn = true ∧ t.turns = turns ∧ t.portP = rest ∧ t.portC = s.portC ∧
        t.BlockIsReset ∧ s.SameSurroundings t ∧
        (s.Legal i → t.responses = s.responses ∧ t.requests = s.requests ∧ t.outbuf = s.outbuf ∧
          (i ≠ .render → t.pixout = s.pixout) ∧ (i = .render → t.pixout = []))) ∧
  (∀ (s : State) (turns : List Turn) (n : BitVec 24) (rest : List (PortItem DevAction)),
    s.turns = .rstDuring false true :: turns → s.resetIn = false → s.mark = none → s.lock = .free →
    decode .C s.portC = .ok (.pull n, rest) →
      ∃ t, step s = .next t ∧ t.resetIn = true ∧ t.turns = turns ∧ t.portC = rest ∧
        (decode .P s.portP = .error .incomplete → t.portP = []) ∧
        (decode .P s.portP ≠ .error .incomplete → t.portP = s.portP) ∧
        t.BlockIsReset ∧ s.SameSurroundings t ∧
        (s.astate = .opened → t.responses = s.responses ∧ t.requests = s.requests ∧ t.pixout = s.pixout ∧
          t.outbuf = [])) ∧
  (∀ (s : State) (turns : List Turn) (i : Instr) (n : BitVec 24) (rest : List (PortItem EnvAction))
    (rest' : List (PortItem DevAction)),
    s.turns = .rstDuring true true :: turns → s.resetIn = false → s.mark = none → s.lock = .free →
    decode .P s.portP = .ok (i, rest) → decode .C s.portC = .ok (.pull n, rest') → s.Legal i → s.astate = .opened →
      ∃ t, step s = .next t ∧ t.resetIn = true ∧ t.turns = turns ∧ t.portP = rest ∧ t.BlockIsReset ∧
        s.SameSurroundings t ∧ t.responses = s.responses ∧ t.requests = s.requests ∧
        (i ≠ .render → t.pixout = s.pixout) ∧ (i = .render → t.pixout = []) ∧
        ((∃ samples, i = .push samples) ∨ i = .rdovf → t.portC = s.portC ∧ t.outbuf = s.outbuf) ∧
        (¬ ((∃ samples, i = .push samples) ∨ i = .rdovf) → t.portC = rest' ∧ t.outbuf = []))

/-- Progress: under a weakly fair schedule of the two agents, in a run that no violation and no fault stops, the command
at the front of each port is performed: at the step that performs it its items still stand at the front
(20_memory.md R89, 70_reset_and_hazards.md R296). Weak fairness is the spec's decision D10; the endless schedules and
the predicate WeaklyFair that express it are the model's choice, log entry 2. -/
def Obligations.FairScheduleServesEveryRequest : Prop :=
  ∀ (schedule : Nat → Turn) (s : State), (∀ k, schedule k = .P ∨ schedule k = .C) → WeaklyFair schedule →
    s.resetIn = false → s.lock = .free → (∀ k, ∃ t, runSchedule schedule k s = .next t ∧ t.mark = none) →
    (∀ i rest, decode .P s.portP = .ok (i, rest) →
      ∃ k t u, runSchedule schedule k s = .next t ∧ t.portP = s.portP ∧
        exec i { t with turns := [], portP := rest } = .next u ∧ runSchedule schedule (k + 1) s = .next u) ∧
    (∀ i rest, decode .C s.portC = .ok (i, rest) →
      ∃ k t u, runSchedule schedule k s = .next t ∧ t.portC = s.portC ∧
        exec i { t with turns := [], portC := rest } = .next u ∧ runSchedule schedule (k + 1) s = .next u)
end

