-- ==== Sys2Proof/Laws/Memory.lean ====
section
/-! SUPPORT. The laws of an address space: reading after writing, the canonical form kept, equal reads of canonical
spaces make them equal. -/

namespace Sys2Proof.Machine

variable {α : Type}

@[simp] theorem Memory.get?_nil (a : Nat) : Memory.get? ([] : Memory α) a = none := rfl

theorem Memory.get?_cons (b : Nat) (w : α) (m : Memory α) (a : Nat) :
    Memory.get? ((b, w) :: m) a = if a = b then some w else Memory.get? m a := rfl

/-- A write is read back, and leaves every other index alone. -/
theorem Memory.get?_set (m : Memory α) (a : Nat) (v : α) (b : Nat) :
    Memory.get? (Memory.set m a v) b = if b = a then some v else Memory.get? m b := by
  induction m with
  | nil => rfl
  | cons c m ih =>
    obtain ⟨k, w⟩ := c
    simp only [Memory.set]
    split
    · simp only [Memory.get?_cons]
    · split
      · subst_vars; simp only [Memory.get?_cons]; split <;> rfl
      · simp only [Memory.get?_cons, ih]; split <;> split <;> simp_all

@[simp] theorem Memory.get?_set_same (m : Memory α) (a : Nat) (v : α) :
    Memory.get? (Memory.set m a v) a = some v := by simp [Memory.get?_set]

theorem Memory.get?_set_ne (m : Memory α) {a b : Nat} (v : α) (h : b ≠ a) :
    Memory.get? (Memory.set m a v) b = Memory.get? m b := by simp [Memory.get?_set, h]

/-- A write lists only its own index beside what was listed. -/
theorem Memory.mem_set {m : Memory α} {a : Nat} {v : α} {c : Nat × α} (h : c ∈ Memory.set m a v) :
    c = (a, v) ∨ c ∈ m := by
  induction m with
  | nil => simpa [Memory.set] using h
  | cons d m ih =>
    obtain ⟨k, w⟩ := d
    simp only [Memory.set] at h
    split at h
    · simpa using h
    · split at h
      · rcases List.mem_cons.1 h with h | h
        · exact .inl h
        · exact .inr (List.mem_cons_of_mem _ h)
      · rcases List.mem_cons.1 h with h | h
        · exact .inr (h ▸ List.mem_cons_self)
        · exact (ih h).imp_right (List.mem_cons_of_mem _)

/-- A write keeps the canonical form. -/
theorem Memory.wf_set {m : Memory α} (h : Memory.wf m) (a : Nat) (v : α) : Memory.wf (Memory.set m a v) := by
  induction m with
  | nil => simp [Memory.set, Memory.wf]
  | cons d m ih =>
    obtain ⟨k, w⟩ := d
    obtain ⟨hd, ht⟩ := List.pairwise_cons.1 h
    simp only [Memory.set]
    split
    · refine List.pairwise_cons.2 ⟨fun c hc => ?_, h⟩
      rcases List.mem_cons.1 hc with rfl | hc
      · assumption
      · have := hd c hc; simp at this ⊢; omega
    · split
      · subst_vars; exact List.pairwise_cons.2 ⟨hd, ht⟩
      · refine List.pairwise_cons.2 ⟨fun c hc => ?_, ih ht⟩
        rcases Memory.mem_set hc with rfl | hc
        · simp; omega
        · exact hd c hc

/-- The cells of consecutive writes. -/
theorem Memory.get?_setRun (m : Memory α) (a : Nat) (vs : List α) (b : Nat) :
    Memory.get? (Memory.setRun m a vs) b =
      if a ≤ b ∧ b < a + vs.length then vs[b - a]? else Memory.get? m b := by
  induction vs generalizing m a with
  | nil => simp [Memory.setRun]
  | cons v vs ih =>
    rw [Memory.setRun, ih, Memory.get?_set, List.length_cons]
    rcases Nat.lt_trichotomy b a with h | rfl | h
    · rw [if_neg (by omega), if_neg (by omega), if_neg (by omega)]
    · simp
    · obtain ⟨k, rfl⟩ : ∃ k, b = a + 1 + k := ⟨b - (a + 1), by omega⟩
      by_cases hk : k < vs.length
      · rw [if_pos (by omega), if_pos (by omega)]
        simp [show a + 1 + k - a = k + 1 by omega]
      · rw [if_neg (by omega), if_neg (by omega), if_neg (by omega)]

theorem Memory.wf_setRun {m : Memory α} (h : Memory.wf m) (a : Nat) (vs : List α) :
    Memory.wf (Memory.setRun m a vs) := by
  induction vs generalizing m a with
  | nil => exact h
  | cons v vs ih => exact ih (Memory.wf_set h a v) (a + 1)

theorem Memory.mem_setRun {m : Memory α} {a : Nat} {vs : List α} {c : Nat × α}
    (h : c ∈ Memory.setRun m a vs) : (a ≤ c.1 ∧ c.1 < a + vs.length) ∨ c ∈ m := by
  induction vs generalizing m a with
  | nil => exact .inr h
  | cons v vs ih =>
    rcases ih h with h | h
    · left; simp; omega
    · rcases Memory.mem_set h with rfl | h
      · left; simp
      · exact .inr h

/-- A list of writes leaves an index alone that is in none of them. -/
theorem Memory.get?_setAll_of_not_mem (m : Memory α) (ws : List (Nat × α)) {a : Nat} (h : ∀ w ∈ ws, w.1 ≠ a) :
    Memory.get? (Memory.setAll m ws) a = Memory.get? m a := by
  induction ws generalizing m with
  | nil => rfl
  | cons w ws ih =>
    rw [Memory.setAll, List.foldl_cons, ← Memory.setAll, ih _ fun x hx => h x (List.mem_cons_of_mem _ hx),
      Memory.get?_set_ne _ _ (Ne.symm (h w List.mem_cons_self))]

/-- A list of writes leaves at an index the value that all its writes there agree on. -/
theorem Memory.get?_setAll_of_mem (m : Memory α) (ws : List (Nat × α)) {a : Nat} {v : α} (hm : (a, v) ∈ ws)
    (h : ∀ w ∈ ws, w.1 = a → w.2 = v) : Memory.get? (Memory.setAll m ws) a = some v := by
  induction ws generalizing m with
  | nil => simp at hm
  | cons w ws ih =>
    rw [Memory.setAll, List.foldl_cons, ← Memory.setAll]
    by_cases hin : (a, v) ∈ ws
    · exact ih _ hin fun x hx => h x (List.mem_cons_of_mem _ hx)
    · obtain rfl : (a, v) = w := by simpa [hin] using hm
      rw [Memory.get?_setAll_of_not_mem, Memory.get?_set_same]
      rintro ⟨x, y⟩ hx rfl
      obtain rfl : y = v := h _ (List.mem_cons_of_mem _ hx) rfl
      exact hin hx

theorem Memory.wf_setAll {m : Memory α} (h : Memory.wf m) (ws : List (Nat × α)) : Memory.wf (Memory.setAll m ws) := by
  induction ws generalizing m with
  | nil => exact h
  | cons w ws ih => exact ih (Memory.wf_set h w.1 w.2)

theorem Memory.mem_setAll {m : Memory α} {ws : List (Nat × α)} {c : Nat × α} (h : c ∈ Memory.setAll m ws) :
    c ∈ ws ∨ c ∈ m := by
  induction ws generalizing m with
  | nil => exact .inr h
  | cons w ws ih =>
    rcases ih h with h | h
    · exact .inl (List.mem_cons_of_mem _ h)
    · rcases Memory.mem_set h with rfl | h
      · exact .inl List.mem_cons_self
      · exact .inr h

theorem Memory.get?_eq_some_of_mem {m : Memory α} (h : Memory.wf m) {c : Nat × α} (hc : c ∈ m) :
    Memory.get? m c.1 = some c.2 := by
  induction m with
  | nil => simp at hc
  | cons d m ih =>
    obtain ⟨k, w⟩ := d
    obtain ⟨hd, ht⟩ := List.pairwise_cons.1 h
    rcases List.mem_cons.1 hc with rfl | hc
    · simp [Memory.get?_cons]
    · have hlt := hd c hc
      rw [Memory.get?_cons, if_neg (by simp at hlt; omega), ih ht hc]

theorem Memory.mem_of_get?_eq_some {m : Memory α} {a : Nat} {v : α} (h : Memory.get? m a = some v) :
    (a, v) ∈ m := by
  induction m with
  | nil => simp at h
  | cons d m ih =>
    obtain ⟨k, w⟩ := d
    rw [Memory.get?_cons] at h
    split at h
    · simp_all
    · exact List.mem_cons_of_mem _ (ih h)

/-- The canonical form is one form: canonical spaces with the same cells are the same data. -/
theorem Memory.ext {m m' : Memory α} (h : Memory.wf m) (h' : Memory.wf m')
    (hg : ∀ a, Memory.get? m a = Memory.get? m' a) : m = m' := by
  have hmem : ∀ c, c ∈ m ↔ c ∈ m' := fun c =>
    ⟨fun hc => Memory.mem_of_get?_eq_some ((hg c.1).symm.trans (Memory.get?_eq_some_of_mem h hc)),
      fun hc => Memory.mem_of_get?_eq_some ((hg c.1).trans (Memory.get?_eq_some_of_mem h' hc))⟩
  have hn : ∀ {l : Memory α}, Memory.wf l → l.Nodup := fun hl =>
    List.Pairwise.imp (fun hlt heq => absurd (heq ▸ hlt) (Nat.lt_irrefl _)) hl
  exact List.Perm.eq_of_pairwise (fun a b _ _ hab hba => absurd (Nat.lt_trans hab hba) (Nat.lt_irrefl _)) h h'
    ((List.perm_ext_iff_of_nodup (hn h) (hn h')).2 hmem)

theorem Memory.get?_tabulate (size : Nat) (f : Nat → α) (a : Nat) :
    Memory.get? (Memory.tabulate size f) a = if a < size then some (f a) else none := by
  have key : ∀ l : List Nat, Memory.get? (l.map fun a => (a, f a)) a = if a ∈ l then some (f a) else none := by
    intro l
    induction l with
    | nil => rfl
    | cons b l ih =>
      rw [List.map_cons, Memory.get?_cons, ih]
      by_cases h : a = b
      · simp [h]
      · simp [h]
  simpa [Memory.tabulate] using key (List.range size)

theorem Memory.wf_tabulate (size : Nat) (f : Nat → α) : Memory.wf (Memory.tabulate size f) :=
  List.pairwise_map.2 List.pairwise_lt_range

theorem Memory.lt_of_mem_tabulate {size : Nat} {f : Nat → α} {c : Nat × α} (h : c ∈ Memory.tabulate size f) :
    c.1 < size := by
  obtain ⟨a, ha, rfl⟩ := List.mem_map.1 h
  exact List.mem_range.1 ha

/-- What an operation reads of a listed cell. -/
theorem Memory.read_of_get? {m : Memory α} {free : Nat → α} {a : Nat} {v : α} (h : Memory.get? m a = some v) :
    Memory.read m free a = v := by simp [Memory.read, h]

end Sys2Proof.Machine
end

