-- ==== Sys2Proof/Laws/State.lean ====
section
/-! SUPPORT. One lemma per field per named update of State, true by definition. -/

namespace Sys2Proof.Machine

variable (s : State)

/-! `State.respond` -/

@[simp] theorem State.respond_cfg (w : Word) : (s.respond w).cfg = s.cfg := rfl
@[simp] theorem State.respond_ring (w : Word) : (s.respond w).ring = s.ring := rfl
@[simp] theorem State.respond_startCur (w : Word) : (s.respond w).startCur = s.startCur := rfl
@[simp] theorem State.respond_endCur (w : Word) : (s.respond w).endCur = s.endCur := rfl
@[simp] theorem State.respond_ovf (w : Word) : (s.respond w).ovf = s.ovf := rfl
@[simp] theorem State.respond_astate (w : Word) : (s.respond w).astate = s.astate := rfl
@[simp] theorem State.respond_och (w : Word) : (s.respond w).och = s.och := rfl
@[simp] theorem State.respond_ofmt (w : Word) : (s.respond w).ofmt = s.ofmt := rfl
@[simp] theorem State.respond_lock (w : Word) : (s.respond w).lock = s.lock := rfl
@[simp] theorem State.respond_outbuf (w : Word) : (s.respond w).outbuf = s.outbuf := rfl
@[simp] theorem State.respond_cur (w : Word) : (s.respond w).cur = s.cur := rfl
@[simp] theorem State.respond_prev (w : Word) : (s.respond w).prev = s.prev := rfl
@[simp] theorem State.respond_cpl (w : Word) : (s.respond w).cpl = s.cpl := rfl
@[simp] theorem State.respond_pixout (w : Word) : (s.respond w).pixout = s.pixout := rfl
@[simp] theorem State.respond_rf (w : Word) : (s.respond w).rf = s.rf := rfl
@[simp] theorem State.respond_inv (w : Word) : (s.respond w).inv = s.inv := rfl
@[simp] theorem State.respond_chroma (w : Word) : (s.respond w).chroma = s.chroma := rfl
@[simp] theorem State.respond_fbrdy (w : Word) : (s.respond w).fbrdy = s.fbrdy := rfl
@[simp] theorem State.respond_kr (w : Word) : (s.respond w).kr = s.kr := rfl
@[simp] theorem State.respond_keystate (w : Word) : (s.respond w).keystate = s.keystate := rfl
@[simp] theorem State.respond_active (w : Word) : (s.respond w).active = s.active := rfl
@[simp] theorem State.respond_paused (w : Word) : (s.respond w).paused = s.paused := rfl
@[simp] theorem State.respond_resetIn (w : Word) : (s.respond w).resetIn = s.resetIn := rfl
@[simp] theorem State.respond_portP (w : Word) : (s.respond w).portP = s.portP := rfl
@[simp] theorem State.respond_portC (w : Word) : (s.respond w).portC = s.portC := rfl
@[simp] theorem State.respond_responses (w : Word) : (s.respond w).responses = s.responses ++ [w] := rfl
@[simp] theorem State.respond_requests (w : Word) : (s.respond w).requests = s.requests := rfl
@[simp] theorem State.respond_mark (w : Word) : (s.respond w).mark = s.mark := rfl
@[simp] theorem State.respond_turns (w : Word) : (s.respond w).turns = s.turns := rfl
@[simp] theorem State.respond_devAnswers (w : Word) : (s.respond w).devAnswers = s.devAnswers := rfl
@[simp] theorem State.respond_draws (w : Word) : (s.respond w).draws = s.draws := rfl
@[simp] theorem State.respond_epoch (w : Word) : (s.respond w).epoch = s.epoch := rfl

/-! `State.acquire` -/

@[simp] theorem State.acquire_cfg (l : Lock) : (s.acquire l).cfg = s.cfg := rfl
@[simp] theorem State.acquire_ring (l : Lock) : (s.acquire l).ring = s.ring := rfl
@[simp] theorem State.acquire_startCur (l : Lock) : (s.acquire l).startCur = s.startCur := rfl
@[simp] theorem State.acquire_endCur (l : Lock) : (s.acquire l).endCur = s.endCur := rfl
@[simp] theorem State.acquire_ovf (l : Lock) : (s.acquire l).ovf = s.ovf := rfl
@[simp] theorem State.acquire_astate (l : Lock) : (s.acquire l).astate = s.astate := rfl
@[simp] theorem State.acquire_och (l : Lock) : (s.acquire l).och = s.och := rfl
@[simp] theorem State.acquire_ofmt (l : Lock) : (s.acquire l).ofmt = s.ofmt := rfl
@[simp] theorem State.acquire_lock (l : Lock) : (s.acquire l).lock = l := rfl
@[simp] theorem State.acquire_outbuf (l : Lock) : (s.acquire l).outbuf = s.outbuf := rfl
@[simp] theorem State.acquire_cur (l : Lock) : (s.acquire l).cur = s.cur := rfl
@[simp] theorem State.acquire_prev (l : Lock) : (s.acquire l).prev = s.prev := rfl
@[simp] theorem State.acquire_cpl (l : Lock) : (s.acquire l).cpl = s.cpl := rfl
@[simp] theorem State.acquire_pixout (l : Lock) : (s.acquire l).pixout = s.pixout := rfl
@[simp] theorem State.acquire_rf (l : Lock) : (s.acquire l).rf = s.rf := rfl
@[simp] theorem State.acquire_inv (l : Lock) : (s.acquire l).inv = s.inv := rfl
@[simp] theorem State.acquire_chroma (l : Lock) : (s.acquire l).chroma = s.chroma := rfl
@[simp] theorem State.acquire_fbrdy (l : Lock) : (s.acquire l).fbrdy = s.fbrdy := rfl
@[simp] theorem State.acquire_kr (l : Lock) : (s.acquire l).kr = s.kr := rfl
@[simp] theorem State.acquire_keystate (l : Lock) : (s.acquire l).keystate = s.keystate := rfl
@[simp] theorem State.acquire_active (l : Lock) : (s.acquire l).active = s.active := rfl
@[simp] theorem State.acquire_paused (l : Lock) : (s.acquire l).paused = s.paused := rfl
@[simp] theorem State.acquire_resetIn (l : Lock) : (s.acquire l).resetIn = s.resetIn := rfl
@[simp] theorem State.acquire_portP (l : Lock) : (s.acquire l).portP = s.portP := rfl
@[simp] theorem State.acquire_portC (l : Lock) : (s.acquire l).portC = s.portC := rfl
@[simp] theorem State.acquire_responses (l : Lock) : (s.acquire l).responses = s.responses := rfl
@[simp] theorem State.acquire_requests (l : Lock) : (s.acquire l).requests = s.requests := rfl
@[simp] theorem State.acquire_mark (l : Lock) : (s.acquire l).mark = s.mark := rfl
@[simp] theorem State.acquire_turns (l : Lock) : (s.acquire l).turns = s.turns := rfl
@[simp] theorem State.acquire_devAnswers (l : Lock) : (s.acquire l).devAnswers = s.devAnswers := rfl
@[simp] theorem State.acquire_draws (l : Lock) : (s.acquire l).draws = s.draws := rfl
@[simp] theorem State.acquire_epoch (l : Lock) : (s.acquire l).epoch = s.epoch := rfl

/-! `State.release` -/

@[simp] theorem State.release_cfg : (s.release).cfg = s.cfg := rfl
@[simp] theorem State.release_ring : (s.release).ring = s.ring := rfl
@[simp] theorem State.release_startCur : (s.release).startCur = s.startCur := rfl
@[simp] theorem State.release_endCur : (s.release).endCur = s.endCur := rfl
@[simp] theorem State.release_ovf : (s.release).ovf = s.ovf := rfl
@[simp] theorem State.release_astate : (s.release).astate = s.astate := rfl
@[simp] theorem State.release_och : (s.release).och = s.och := rfl
@[simp] theorem State.release_ofmt : (s.release).ofmt = s.ofmt := rfl
@[simp] theorem State.release_lock : (s.release).lock = .free := rfl
@[simp] theorem State.release_outbuf : (s.release).outbuf = s.outbuf := rfl
@[simp] theorem State.release_cur : (s.release).cur = s.cur := rfl
@[simp] theorem State.release_prev : (s.release).prev = s.prev := rfl
@[simp] theorem State.release_cpl : (s.release).cpl = s.cpl := rfl
@[simp] theorem State.release_pixout : (s.release).pixout = s.pixout := rfl
@[simp] theorem State.release_rf : (s.release).rf = s.rf := rfl
@[simp] theorem State.release_inv : (s.release).inv = s.inv := rfl
@[simp] theorem State.release_chroma : (s.release).chroma = s.chroma := rfl
@[simp] theorem State.release_fbrdy : (s.release).fbrdy = s.fbrdy := rfl
@[simp] theorem State.release_kr : (s.release).kr = s.kr := rfl
@[simp] theorem State.release_keystate : (s.release).keystate = s.keystate := rfl
@[simp] theorem State.release_active : (s.release).active = s.active := rfl
@[simp] theorem State.release_paused : (s.release).paused = s.paused := rfl
@[simp] theorem State.release_resetIn : (s.release).resetIn = s.resetIn := rfl
@[simp] theorem State.release_portP : (s.release).portP = s.portP := rfl
@[simp] theorem State.release_portC : (s.release).portC = s.portC := rfl
@[simp] theorem State.release_responses : (s.release).responses = s.responses := rfl
@[simp] theorem State.release_requests : (s.release).requests = s.requests := rfl
@[simp] theorem State.release_mark : (s.release).mark = s.mark := rfl
@[simp] theorem State.release_turns : (s.release).turns = s.turns := rfl
@[simp] theorem State.release_devAnswers : (s.release).devAnswers = s.devAnswers := rfl
@[simp] theorem State.release_draws : (s.release).draws = s.draws := rfl
@[simp] theorem State.release_epoch : (s.release).epoch = s.epoch := rfl

/-! `State.advanceStart` -/

@[simp] theorem State.advanceStart_cfg : (s.advanceStart).cfg = s.cfg := rfl
@[simp] theorem State.advanceStart_ring : (s.advanceStart).ring = s.ring := rfl
@[simp] theorem State.advanceStart_startCur : (s.advanceStart).startCur = (s.startCur + 1) % s.cfg.n := rfl
@[simp] theorem State.advanceStart_endCur : (s.advanceStart).endCur = s.endCur := rfl
@[simp] theorem State.advanceStart_ovf : (s.advanceStart).ovf = s.ovf := rfl
@[simp] theorem State.advanceStart_astate : (s.advanceStart).astate = s.astate := rfl
@[simp] theorem State.advanceStart_och : (s.advanceStart).och = s.och := rfl
@[simp] theorem State.advanceStart_ofmt : (s.advanceStart).ofmt = s.ofmt := rfl
@[simp] theorem State.advanceStart_lock : (s.advanceStart).lock = s.lock := rfl
@[simp] theorem State.advanceStart_outbuf : (s.advanceStart).outbuf = s.outbuf := rfl
@[simp] theorem State.advanceStart_cur : (s.advanceStart).cur = s.cur := rfl
@[simp] theorem State.advanceStart_prev : (s.advanceStart).prev = s.prev := rfl
@[simp] theorem State.advanceStart_cpl : (s.advanceStart).cpl = s.cpl := rfl
@[simp] theorem State.advanceStart_pixout : (s.advanceStart).pixout = s.pixout := rfl
@[simp] theorem State.advanceStart_rf : (s.advanceStart).rf = s.rf := rfl
@[simp] theorem State.advanceStart_inv : (s.advanceStart).inv = s.inv := rfl
@[simp] theorem State.advanceStart_chroma : (s.advanceStart).chroma = s.chroma := rfl
@[simp] theorem State.advanceStart_fbrdy : (s.advanceStart).fbrdy = s.fbrdy := rfl
@[simp] theorem State.advanceStart_kr : (s.advanceStart).kr = s.kr := rfl
@[simp] theorem State.advanceStart_keystate : (s.advanceStart).keystate = s.keystate := rfl
@[simp] theorem State.advanceStart_active : (s.advanceStart).active = s.active := rfl
@[simp] theorem State.advanceStart_paused : (s.advanceStart).paused = s.paused := rfl
@[simp] theorem State.advanceStart_resetIn : (s.advanceStart).resetIn = s.resetIn := rfl
@[simp] theorem State.advanceStart_portP : (s.advanceStart).portP = s.portP := rfl
@[simp] theorem State.advanceStart_portC : (s.advanceStart).portC = s.portC := rfl
@[simp] theorem State.advanceStart_responses : (s.advanceStart).responses = s.responses := rfl
@[simp] theorem State.advanceStart_requests : (s.advanceStart).requests = s.requests := rfl
@[simp] theorem State.advanceStart_mark : (s.advanceStart).mark = s.mark := rfl
@[simp] theorem State.advanceStart_turns : (s.advanceStart).turns = s.turns := rfl
@[simp] theorem State.advanceStart_devAnswers : (s.advanceStart).devAnswers = s.devAnswers := rfl
@[simp] theorem State.advanceStart_draws : (s.advanceStart).draws = s.draws := rfl
@[simp] theorem State.advanceStart_epoch : (s.advanceStart).epoch = s.epoch := rfl

/-! `State.writeSlot` -/

@[simp] theorem State.writeSlot_cfg (v : Sample) : (s.writeSlot v).cfg = s.cfg := rfl
@[simp] theorem State.writeSlot_ring (v : Sample) : (s.writeSlot v).ring = s.ring.set s.endCur v := rfl
@[simp] theorem State.writeSlot_startCur (v : Sample) : (s.writeSlot v).startCur = s.startCur := rfl
@[simp] theorem State.writeSlot_endCur (v : Sample) : (s.writeSlot v).endCur = (s.endCur + 1) % s.cfg.n := rfl
@[simp] theorem State.writeSlot_ovf (v : Sample) : (s.writeSlot v).ovf = s.ovf := rfl
@[simp] theorem State.writeSlot_astate (v : Sample) : (s.writeSlot v).astate = s.astate := rfl
@[simp] theorem State.writeSlot_och (v : Sample) : (s.writeSlot v).och = s.och := rfl
@[simp] theorem State.writeSlot_ofmt (v : Sample) : (s.writeSlot v).ofmt = s.ofmt := rfl
@[simp] theorem State.writeSlot_lock (v : Sample) : (s.writeSlot v).lock = s.lock := rfl
@[simp] theorem State.writeSlot_outbuf (v : Sample) : (s.writeSlot v).outbuf = s.outbuf := rfl
@[simp] theorem State.writeSlot_cur (v : Sample) : (s.writeSlot v).cur = s.cur := rfl
@[simp] theorem State.writeSlot_prev (v : Sample) : (s.writeSlot v).prev = s.prev := rfl
@[simp] theorem State.writeSlot_cpl (v : Sample) : (s.writeSlot v).cpl = s.cpl := rfl
@[simp] theorem State.writeSlot_pixout (v : Sample) : (s.writeSlot v).pixout = s.pixout := rfl
@[simp] theorem State.writeSlot_rf (v : Sample) : (s.writeSlot v).rf = s.rf := rfl
@[simp] theorem State.writeSlot_inv (v : Sample) : (s.writeSlot v).inv = s.inv := rfl
@[simp] theorem State.writeSlot_chroma (v : Sample) : (s.writeSlot v).chroma = s.chroma := rfl
@[simp] theorem State.writeSlot_fbrdy (v : Sample) : (s.writeSlot v).fbrdy = s.fbrdy := rfl
@[simp] theorem State.writeSlot_kr (v : Sample) : (s.writeSlot v).kr = s.kr := rfl
@[simp] theorem State.writeSlot_keystate (v : Sample) : (s.writeSlot v).keystate = s.keystate := rfl
@[simp] theorem State.writeSlot_active (v : Sample) : (s.writeSlot v).active = s.active := rfl
@[simp] theorem State.writeSlot_paused (v : Sample) : (s.writeSlot v).paused = s.paused := rfl
@[simp] theorem State.writeSlot_resetIn (v : Sample) : (s.writeSlot v).resetIn = s.resetIn := rfl
@[simp] theorem State.writeSlot_portP (v : Sample) : (s.writeSlot v).portP = s.portP := rfl
@[simp] theorem State.writeSlot_portC (v : Sample) : (s.writeSlot v).portC = s.portC := rfl
@[simp] theorem State.writeSlot_responses (v : Sample) : (s.writeSlot v).responses = s.responses := rfl
@[simp] theorem State.writeSlot_requests (v : Sample) : (s.writeSlot v).requests = s.requests := rfl
@[simp] theorem State.writeSlot_mark (v : Sample) : (s.writeSlot v).mark = s.mark := rfl
@[simp] theorem State.writeSlot_turns (v : Sample) : (s.writeSlot v).turns = s.turns := rfl
@[simp] theorem State.writeSlot_devAnswers (v : Sample) : (s.writeSlot v).devAnswers = s.devAnswers := rfl
@[simp] theorem State.writeSlot_draws (v : Sample) : (s.writeSlot v).draws = s.draws := rfl
@[simp] theorem State.writeSlot_epoch (v : Sample) : (s.writeSlot v).epoch = s.epoch := rfl

/-! `State.dropOldest` -/

@[simp] theorem State.dropOldest_cfg : (s.dropOldest).cfg = s.cfg := rfl
@[simp] theorem State.dropOldest_ring : (s.dropOldest).ring = s.ring := rfl
@[simp] theorem State.dropOldest_startCur : (s.dropOldest).startCur = (s.startCur + 1) % s.cfg.n := rfl
@[simp] theorem State.dropOldest_endCur : (s.dropOldest).endCur = s.endCur := rfl
@[simp] theorem State.dropOldest_ovf : (s.dropOldest).ovf = s.ovf + 1#32 := rfl
@[simp] theorem State.dropOldest_astate : (s.dropOldest).astate = s.astate := rfl
@[simp] theorem State.dropOldest_och : (s.dropOldest).och = s.och := rfl
@[simp] theorem State.dropOldest_ofmt : (s.dropOldest).ofmt = s.ofmt := rfl
@[simp] theorem State.dropOldest_lock : (s.dropOldest).lock = s.lock := rfl
@[simp] theorem State.dropOldest_outbuf : (s.dropOldest).outbuf = s.outbuf := rfl
@[simp] theorem State.dropOldest_cur : (s.dropOldest).cur = s.cur := rfl
@[simp] theorem State.dropOldest_prev : (s.dropOldest).prev = s.prev := rfl
@[simp] theorem State.dropOldest_cpl : (s.dropOldest).cpl = s.cpl := rfl
@[simp] theorem State.dropOldest_pixout : (s.dropOldest).pixout = s.pixout := rfl
@[simp] theorem State.dropOldest_rf : (s.dropOldest).rf = s.rf := rfl
@[simp] theorem State.dropOldest_inv : (s.dropOldest).inv = s.inv := rfl
@[simp] theorem State.dropOldest_chroma : (s.dropOldest).chroma = s.chroma := rfl
@[simp] theorem State.dropOldest_fbrdy : (s.dropOldest).fbrdy = s.fbrdy := rfl
@[simp] theorem State.dropOldest_kr : (s.dropOldest).kr = s.kr := rfl
@[simp] theorem State.dropOldest_keystate : (s.dropOldest).keystate = s.keystate := rfl
@[simp] theorem State.dropOldest_active : (s.dropOldest).active = s.active := rfl
@[simp] theorem State.dropOldest_paused : (s.dropOldest).paused = s.paused := rfl
@[simp] theorem State.dropOldest_resetIn : (s.dropOldest).resetIn = s.resetIn := rfl
@[simp] theorem State.dropOldest_portP : (s.dropOldest).portP = s.portP := rfl
@[simp] theorem State.dropOldest_portC : (s.dropOldest).portC = s.portC := rfl
@[simp] theorem State.dropOldest_responses : (s.dropOldest).responses = s.responses := rfl
@[simp] theorem State.dropOldest_requests : (s.dropOldest).requests = s.requests := rfl
@[simp] theorem State.dropOldest_mark : (s.dropOldest).mark = s.mark := rfl
@[simp] theorem State.dropOldest_turns : (s.dropOldest).turns = s.turns := rfl
@[simp] theorem State.dropOldest_devAnswers : (s.dropOldest).devAnswers = s.devAnswers := rfl
@[simp] theorem State.dropOldest_draws : (s.dropOldest).draws = s.draws := rfl
@[simp] theorem State.dropOldest_epoch : (s.dropOldest).epoch = s.epoch := rfl

/-! `State.deliver` -/

@[simp] theorem State.deliver_cfg (i : Nat) : (s.deliver i).cfg = s.cfg := rfl
@[simp] theorem State.deliver_ring (i : Nat) : (s.deliver i).ring = s.ring := rfl
@[simp] theorem State.deliver_startCur (i : Nat) : (s.deliver i).startCur = (s.startCur + 1) % s.cfg.n := rfl
@[simp] theorem State.deliver_endCur (i : Nat) : (s.deliver i).endCur = s.endCur := rfl
@[simp] theorem State.deliver_ovf (i : Nat) : (s.deliver i).ovf = s.ovf := rfl
@[simp] theorem State.deliver_astate (i : Nat) : (s.deliver i).astate = s.astate := rfl
@[simp] theorem State.deliver_och (i : Nat) : (s.deliver i).och = s.och := rfl
@[simp] theorem State.deliver_ofmt (i : Nat) : (s.deliver i).ofmt = s.ofmt := rfl
@[simp] theorem State.deliver_lock (i : Nat) : (s.deliver i).lock = s.lock := rfl
@[simp] theorem State.deliver_outbuf (i : Nat) :
    (s.deliver i).outbuf = s.outbuf.setRun (i * s.frameSize) (frameBytes s.och s.ofmt (s.ringAt s.startCur)) := rfl
@[simp] theorem State.deliver_cur (i : Nat) : (s.deliver i).cur = s.cur := rfl
@[simp] theorem State.deliver_prev (i : Nat) : (s.deliver i).prev = s.prev := rfl
@[simp] theorem State.deliver_cpl (i : Nat) : (s.deliver i).cpl = s.cpl := rfl
@[simp] theorem State.deliver_pixout (i : Nat) : (s.deliver i).pixout = s.pixout := rfl
@[simp] theorem State.deliver_rf (i : Nat) : (s.deliver i).rf = s.rf := rfl
@[simp] theorem State.deliver_inv (i : Nat) : (s.deliver i).inv = s.inv := rfl
@[simp] theorem State.deliver_chroma (i : Nat) : (s.deliver i).chroma = s.chroma := rfl
@[simp] theorem State.deliver_fbrdy (i : Nat) : (s.deliver i).fbrdy = s.fbrdy := rfl
@[simp] theorem State.deliver_kr (i : Nat) : (s.deliver i).kr = s.kr := rfl
@[simp] theorem State.deliver_keystate (i : Nat) : (s.deliver i).keystate = s.keystate := rfl
@[simp] theorem State.deliver_active (i : Nat) : (s.deliver i).active = s.active := rfl
@[simp] theorem State.deliver_paused (i : Nat) : (s.deliver i).paused = s.paused := rfl
@[simp] theorem State.deliver_resetIn (i : Nat) : (s.deliver i).resetIn = s.resetIn := rfl
@[simp] theorem State.deliver_portP (i : Nat) : (s.deliver i).portP = s.portP := rfl
@[simp] theorem State.deliver_portC (i : Nat) : (s.deliver i).portC = s.portC := rfl
@[simp] theorem State.deliver_responses (i : Nat) : (s.deliver i).responses = s.responses := rfl
@[simp] theorem State.deliver_requests (i : Nat) : (s.deliver i).requests = s.requests := rfl
@[simp] theorem State.deliver_mark (i : Nat) : (s.deliver i).mark = s.mark := rfl
@[simp] theorem State.deliver_turns (i : Nat) : (s.deliver i).turns = s.turns := rfl
@[simp] theorem State.deliver_devAnswers (i : Nat) : (s.deliver i).devAnswers = s.devAnswers := rfl
@[simp] theorem State.deliver_draws (i : Nat) : (s.deliver i).draws = s.draws := rfl
@[simp] theorem State.deliver_epoch (i : Nat) : (s.deliver i).epoch = s.epoch := rfl

/-! `State.rebaseline` -/

@[simp] theorem State.rebaseline_cfg : (s.rebaseline).cfg = s.cfg := rfl
@[simp] theorem State.rebaseline_ring : (s.rebaseline).ring = s.ring := rfl
@[simp] theorem State.rebaseline_startCur : (s.rebaseline).startCur = s.startCur := rfl
@[simp] theorem State.rebaseline_endCur : (s.rebaseline).endCur = s.endCur := rfl
@[simp] theorem State.rebaseline_ovf : (s.rebaseline).ovf = s.ovf := rfl
@[simp] theorem State.rebaseline_astate : (s.rebaseline).astate = s.astate := rfl
@[simp] theorem State.rebaseline_och : (s.rebaseline).och = s.och := rfl
@[simp] theorem State.rebaseline_ofmt : (s.rebaseline).ofmt = s.ofmt := rfl
@[simp] theorem State.rebaseline_lock : (s.rebaseline).lock = s.lock := rfl
@[simp] theorem State.rebaseline_outbuf : (s.rebaseline).outbuf = s.outbuf := rfl
@[simp] theorem State.rebaseline_cur : (s.rebaseline).cur = s.cur := rfl
@[simp] theorem State.rebaseline_prev : (s.rebaseline).prev = Memory.tabulate (Space.size s.cfg .prev) s.curAt := rfl
@[simp] theorem State.rebaseline_cpl : (s.rebaseline).cpl = s.cpl := rfl
@[simp] theorem State.rebaseline_pixout : (s.rebaseline).pixout = s.pixout := rfl
@[simp] theorem State.rebaseline_rf : (s.rebaseline).rf = s.rf := rfl
@[simp] theorem State.rebaseline_inv : (s.rebaseline).inv = s.inv := rfl
@[simp] theorem State.rebaseline_chroma : (s.rebaseline).chroma = s.chroma := rfl
@[simp] theorem State.rebaseline_fbrdy : (s.rebaseline).fbrdy = s.fbrdy := rfl
@[simp] theorem State.rebaseline_kr : (s.rebaseline).kr = s.kr := rfl
@[simp] theorem State.rebaseline_keystate : (s.rebaseline).keystate = s.keystate := rfl
@[simp] theorem State.rebaseline_active : (s.rebaseline).active = s.active := rfl
@[simp] theorem State.rebaseline_paused : (s.rebaseline).paused = s.paused := rfl
@[simp] theorem State.rebaseline_resetIn : (s.rebaseline).resetIn = s.resetIn := rfl
@[simp] theorem State.rebaseline_portP : (s.rebaseline).portP = s.portP := rfl
@[simp] theorem State.rebaseline_portC : (s.rebaseline).portC = s.portC := rfl
@[simp] theorem State.rebaseline_responses : (s.rebaseline).responses = s.responses := rfl
@[simp] theorem State.rebaseline_requests : (s.rebaseline).requests = s.requests := rfl
@[simp] theorem State.rebaseline_mark : (s.rebaseline).mark = s.mark := rfl
@[simp] theorem State.rebaseline_turns : (s.rebaseline).turns = s.turns := rfl
@[simp] theorem State.rebaseline_devAnswers : (s.rebaseline).devAnswers = s.devAnswers := rfl
@[simp] theorem State.rebaseline_draws : (s.rebaseline).draws = s.draws := rfl
@[simp] theorem State.rebaseline_epoch : (s.rebaseline).epoch = s.epoch := rfl

/-! `State.encodeRows` -/

@[simp] theorem State.encodeRows_cfg : (s.encodeRows).cfg = s.cfg := rfl
@[simp] theorem State.encodeRows_ring : (s.encodeRows).ring = s.ring := rfl
@[simp] theorem State.encodeRows_startCur : (s.encodeRows).startCur = s.startCur := rfl
@[simp] theorem State.encodeRows_endCur : (s.encodeRows).endCur = s.endCur := rfl
@[simp] theorem State.encodeRows_ovf : (s.encodeRows).ovf = s.ovf := rfl
@[simp] theorem State.encodeRows_astate : (s.encodeRows).astate = s.astate := rfl
@[simp] theorem State.encodeRows_och : (s.encodeRows).och = s.och := rfl
@[simp] theorem State.encodeRows_ofmt : (s.encodeRows).ofmt = s.ofmt := rfl
@[simp] theorem State.encodeRows_lock : (s.encodeRows).lock = s.lock := rfl
@[simp] theorem State.encodeRows_outbuf : (s.encodeRows).outbuf = s.outbuf := rfl
@[simp] theorem State.encodeRows_cur : (s.encodeRows).cur = s.cur := rfl
@[simp] theorem State.encodeRows_prev : (s.encodeRows).prev = s.prev := rfl
@[simp] theorem State.encodeRows_cpl : (s.encodeRows).cpl = s.cpl := rfl
@[simp] theorem State.encodeRows_pixout : (s.encodeRows).pixout = s.pixout := rfl
@[simp] theorem State.encodeRows_rf : (s.encodeRows).rf = s.rf := rfl
@[simp] theorem State.encodeRows_inv : (s.encodeRows).inv = s.inv := rfl
@[simp] theorem State.encodeRows_chroma : (s.encodeRows).chroma = s.chroma := rfl
@[simp] theorem State.encodeRows_fbrdy : (s.encodeRows).fbrdy = s.fbrdy := rfl
@[simp] theorem State.encodeRows_kr : (s.encodeRows).kr = Rows.ofFn fun r => rowOf (s.rowAccumulator r) := rfl
@[simp] theorem State.encodeRows_keystate : (s.encodeRows).keystate = s.keystate := rfl
@[simp] theorem State.encodeRows_active : (s.encodeRows).active = s.active := rfl
@[simp] theorem State.encodeRows_paused : (s.encodeRows).paused = s.paused := rfl
@[simp] theorem State.encodeRows_resetIn : (s.encodeRows).resetIn = s.resetIn := rfl
@[simp] theorem State.encodeRows_portP : (s.encodeRows).portP = s.portP := rfl
@[simp] theorem State.encodeRows_portC : (s.encodeRows).portC = s.portC := rfl
@[simp] theorem State.encodeRows_responses : (s.encodeRows).responses = s.responses := rfl
@[simp] theorem State.encodeRows_requests : (s.encodeRows).requests = s.requests := rfl
@[simp] theorem State.encodeRows_mark : (s.encodeRows).mark = s.mark := rfl
@[simp] theorem State.encodeRows_turns : (s.encodeRows).turns = s.turns := rfl
@[simp] theorem State.encodeRows_devAnswers : (s.encodeRows).devAnswers = s.devAnswers := rfl
@[simp] theorem State.encodeRows_draws : (s.encodeRows).draws = s.draws := rfl
@[simp] theorem State.encodeRows_epoch : (s.encodeRows).epoch = s.epoch := rfl

/-! `State.resetBlock` -/

@[simp] theorem State.resetBlock_cfg : (s.resetBlock).cfg = s.cfg := rfl
@[simp] theorem State.resetBlock_ring : (s.resetBlock).ring = [] := rfl
@[simp] theorem State.resetBlock_startCur : (s.resetBlock).startCur = 0 := rfl
@[simp] theorem State.resetBlock_endCur : (s.resetBlock).endCur = 0 := rfl
@[simp] theorem State.resetBlock_ovf : (s.resetBlock).ovf = 0#32 := rfl
@[simp] theorem State.resetBlock_astate : (s.resetBlock).astate = .idle := rfl
@[simp] theorem State.resetBlock_och : (s.resetBlock).och = 0#3 := rfl
@[simp] theorem State.resetBlock_ofmt : (s.resetBlock).ofmt = .unsigned8 := rfl
@[simp] theorem State.resetBlock_lock : (s.resetBlock).lock = .free := rfl
@[simp] theorem State.resetBlock_outbuf : (s.resetBlock).outbuf = s.outbuf := rfl
@[simp] theorem State.resetBlock_cur : (s.resetBlock).cur = s.cur := rfl
@[simp] theorem State.resetBlock_prev : (s.resetBlock).prev = [] := rfl
@[simp] theorem State.resetBlock_cpl : (s.resetBlock).cpl = s.cpl := rfl
@[simp] theorem State.resetBlock_pixout : (s.resetBlock).pixout = s.pixout := rfl
@[simp] theorem State.resetBlock_rf : (s.resetBlock).rf = true := rfl
@[simp] theorem State.resetBlock_inv : (s.resetBlock).inv = s.inv := rfl
@[simp] theorem State.resetBlock_chroma : (s.resetBlock).chroma = s.chroma := rfl
@[simp] theorem State.resetBlock_fbrdy : (s.resetBlock).fbrdy = s.fbrdy := rfl
@[simp] theorem State.resetBlock_kr : (s.resetBlock).kr = Rows.reset := rfl
@[simp] theorem State.resetBlock_keystate : (s.resetBlock).keystate = s.keystate := rfl
@[simp] theorem State.resetBlock_active : (s.resetBlock).active = s.active := rfl
@[simp] theorem State.resetBlock_paused : (s.resetBlock).paused = s.paused := rfl
@[simp] theorem State.resetBlock_resetIn : (s.resetBlock).resetIn = s.resetIn := rfl
@[simp] theorem State.resetBlock_portP : (s.resetBlock).portP = s.portP := rfl
@[simp] theorem State.resetBlock_portC : (s.resetBlock).portC = s.portC := rfl
@[simp] theorem State.resetBlock_responses : (s.resetBlock).responses = s.responses := rfl
@[simp] theorem State.resetBlock_requests : (s.resetBlock).requests = s.requests := rfl
@[simp] theorem State.resetBlock_mark : (s.resetBlock).mark = none := rfl
@[simp] theorem State.resetBlock_turns : (s.resetBlock).turns = s.turns := rfl
@[simp] theorem State.resetBlock_devAnswers : (s.resetBlock).devAnswers = s.devAnswers := rfl
@[simp] theorem State.resetBlock_draws : (s.resetBlock).draws = s.draws := rfl
@[simp] theorem State.resetBlock_epoch : (s.resetBlock).epoch = s.epoch + 1 := rfl

/-! `State.paint` -/

@[simp] theorem State.paint_cfg : (s.paint).cfg = s.cfg := rfl
@[simp] theorem State.paint_ring : (s.paint).ring = s.ring := rfl
@[simp] theorem State.paint_startCur : (s.paint).startCur = s.startCur := rfl
@[simp] theorem State.paint_endCur : (s.paint).endCur = s.endCur := rfl
@[simp] theorem State.paint_ovf : (s.paint).ovf = s.ovf := rfl
@[simp] theorem State.paint_astate : (s.paint).astate = s.astate := rfl
@[simp] theorem State.paint_och : (s.paint).och = s.och := rfl
@[simp] theorem State.paint_ofmt : (s.paint).ofmt = s.ofmt := rfl
@[simp] theorem State.paint_lock : (s.paint).lock = s.lock := rfl
@[simp] theorem State.paint_outbuf : (s.paint).outbuf = s.outbuf := rfl
@[simp] theorem State.paint_cur : (s.paint).cur = s.cur := rfl
@[simp] theorem State.paint_prev : (s.paint).prev = s.prev := rfl
@[simp] theorem State.paint_cpl : (s.paint).cpl = s.cpl := rfl
@[simp] theorem State.paint_pixout : (s.paint).pixout = s.pixout.setAll s.renderWrites := rfl
@[simp] theorem State.paint_rf : (s.paint).rf = s.rf := rfl
@[simp] theorem State.paint_inv : (s.paint).inv = s.inv := rfl
@[simp] theorem State.paint_chroma : (s.paint).chroma = s.chroma := rfl
@[simp] theorem State.paint_fbrdy : (s.paint).fbrdy = s.fbrdy := rfl
@[simp] theorem State.paint_kr : (s.paint).kr = s.kr := rfl
@[simp] theorem State.paint_keystate : (s.paint).keystate = s.keystate := rfl
@[simp] theorem State.paint_active : (s.paint).active = s.active := rfl
@[simp] theorem State.paint_paused : (s.paint).paused = s.paused := rfl
@[simp] theorem State.paint_resetIn : (s.paint).resetIn = s.resetIn := rfl
@[simp] theorem State.paint_portP : (s.paint).portP = s.portP := rfl
@[simp] theorem State.paint_portC : (s.paint).portC = s.portC := rfl
@[simp] theorem State.paint_responses : (s.paint).responses = s.responses := rfl
@[simp] theorem State.paint_requests : (s.paint).requests = s.requests := rfl
@[simp] theorem State.paint_mark : (s.paint).mark = s.mark := rfl
@[simp] theorem State.paint_turns : (s.paint).turns = s.turns := rfl
@[simp] theorem State.paint_devAnswers : (s.paint).devAnswers = s.devAnswers := rfl
@[simp] theorem State.paint_draws : (s.paint).draws = s.draws := rfl
@[simp] theorem State.paint_epoch : (s.paint).epoch = s.epoch := rfl

/-! `State.clearRefresh` -/

@[simp] theorem State.clearRefresh_cfg : (s.clearRefresh).cfg = s.cfg := rfl
@[simp] theorem State.clearRefresh_ring : (s.clearRefresh).ring = s.ring := rfl
@[simp] theorem State.clearRefresh_startCur : (s.clearRefresh).startCur = s.startCur := rfl
@[simp] theorem State.clearRefresh_endCur : (s.clearRefresh).endCur = s.endCur := rfl
@[simp] theorem State.clearRefresh_ovf : (s.clearRefresh).ovf = s.ovf := rfl
@[simp] theorem State.clearRefresh_astate : (s.clearRefresh).astate = s.astate := rfl
@[simp] theorem State.clearRefresh_och : (s.clearRefresh).och = s.och := rfl
@[simp] theorem State.clearRefresh_ofmt : (s.clearRefresh).ofmt = s.ofmt := rfl
@[simp] theorem State.clearRefresh_lock : (s.clearRefresh).lock = s.lock := rfl
@[simp] theorem State.clearRefresh_outbuf : (s.clearRefresh).outbuf = s.outbuf := rfl
@[simp] theorem State.clearRefresh_cur : (s.clearRefresh).cur = s.cur := rfl
@[simp] theorem State.clearRefresh_prev : (s.clearRefresh).prev = s.prev := rfl
@[simp] theorem State.clearRefresh_cpl : (s.clearRefresh).cpl = s.cpl := rfl
@[simp] theorem State.clearRefresh_pixout : (s.clearRefresh).pixout = s.pixout := rfl
@[simp] theorem State.clearRefresh_rf : (s.clearRefresh).rf = false := rfl
@[simp] theorem State.clearRefresh_inv : (s.clearRefresh).inv = s.inv := rfl
@[simp] theorem State.clearRefresh_chroma : (s.clearRefresh).chroma = s.chroma := rfl
@[simp] theorem State.clearRefresh_fbrdy : (s.clearRefresh).fbrdy = s.fbrdy := rfl
@[simp] theorem State.clearRefresh_kr : (s.clearRefresh).kr = s.kr := rfl
@[simp] theorem State.clearRefresh_keystate : (s.clearRefresh).keystate = s.keystate := rfl
@[simp] theorem State.clearRefresh_active : (s.clearRefresh).active = s.active := rfl
@[simp] theorem State.clearRefresh_paused : (s.clearRefresh).paused = s.paused := rfl
@[simp] theorem State.clearRefresh_resetIn : (s.clearRefresh).resetIn = s.resetIn := rfl
@[simp] theorem State.clearRefresh_portP : (s.clearRefresh).portP = s.portP := rfl
@[simp] theorem State.clearRefresh_portC : (s.clearRefresh).portC = s.portC := rfl
@[simp] theorem State.clearRefresh_responses : (s.clearRefresh).responses = s.responses := rfl
@[simp] theorem State.clearRefresh_requests : (s.clearRefresh).requests = s.requests := rfl
@[simp] theorem State.clearRefresh_mark : (s.clearRefresh).mark = s.mark := rfl
@[simp] theorem State.clearRefresh_turns : (s.clearRefresh).turns = s.turns := rfl
@[simp] theorem State.clearRefresh_devAnswers : (s.clearRefresh).devAnswers = s.devAnswers := rfl
@[simp] theorem State.clearRefresh_draws : (s.clearRefresh).draws = s.draws := rfl
@[simp] theorem State.clearRefresh_epoch : (s.clearRefresh).epoch = s.epoch := rfl

/-! `State.request` -/

@[simp] theorem State.request_cfg (r : OpenRequest) : (s.request r).cfg = s.cfg := rfl
@[simp] theorem State.request_ring (r : OpenRequest) : (s.request r).ring = s.ring := rfl
@[simp] theorem State.request_startCur (r : OpenRequest) : (s.request r).startCur = s.startCur := rfl
@[simp] theorem State.request_endCur (r : OpenRequest) : (s.request r).endCur = s.endCur := rfl
@[simp] theorem State.request_ovf (r : OpenRequest) : (s.request r).ovf = s.ovf := rfl
@[simp] theorem State.request_astate (r : OpenRequest) : (s.request r).astate = s.astate := rfl
@[simp] theorem State.request_och (r : OpenRequest) : (s.request r).och = s.och := rfl
@[simp] theorem State.request_ofmt (r : OpenRequest) : (s.request r).ofmt = s.ofmt := rfl
@[simp] theorem State.request_lock (r : OpenRequest) : (s.request r).lock = s.lock := rfl
@[simp] theorem State.request_outbuf (r : OpenRequest) : (s.request r).outbuf = s.outbuf := rfl
@[simp] theorem State.request_cur (r : OpenRequest) : (s.request r).cur = s.cur := rfl
@[simp] theorem State.request_prev (r : OpenRequest) : (s.request r).prev = s.prev := rfl
@[simp] theorem State.request_cpl (r : OpenRequest) : (s.request r).cpl = s.cpl := rfl
@[simp] theorem State.request_pixout (r : OpenRequest) : (s.request r).pixout = s.pixout := rfl
@[simp] theorem State.request_rf (r : OpenRequest) : (s.request r).rf = s.rf := rfl
@[simp] theorem State.request_inv (r : OpenRequest) : (s.request r).inv = s.inv := rfl
@[simp] theorem State.request_chroma (r : OpenRequest) : (s.request r).chroma = s.chroma := rfl
@[simp] theorem State.request_fbrdy (r : OpenRequest) : (s.request r).fbrdy = s.fbrdy := rfl
@[simp] theorem State.request_kr (r : OpenRequest) : (s.request r).kr = s.kr := rfl
@[simp] theorem State.request_keystate (r : OpenRequest) : (s.request r).keystate = s.keystate := rfl
@[simp] theorem State.request_active (r : OpenRequest) : (s.request r).active = s.active := rfl
@[simp] theorem State.request_paused (r : OpenRequest) : (s.request r).paused = s.paused := rfl
@[simp] theorem State.request_resetIn (r : OpenRequest) : (s.request r).resetIn = s.resetIn := rfl
@[simp] theorem State.request_portP (r : OpenRequest) : (s.request r).portP = s.portP := rfl
@[simp] theorem State.request_portC (r : OpenRequest) : (s.request r).portC = s.portC := rfl
@[simp] theorem State.request_responses (r : OpenRequest) : (s.request r).responses = s.responses := rfl
@[simp] theorem State.request_requests (r : OpenRequest) : (s.request r).requests = s.requests ++ [r] := rfl
@[simp] theorem State.request_mark (r : OpenRequest) : (s.request r).mark = s.mark := rfl
@[simp] theorem State.request_turns (r : OpenRequest) : (s.request r).turns = s.turns := rfl
@[simp] theorem State.request_devAnswers (r : OpenRequest) : (s.request r).devAnswers = s.devAnswers := rfl
@[simp] theorem State.request_draws (r : OpenRequest) : (s.request r).draws = s.draws := rfl
@[simp] theorem State.request_epoch (r : OpenRequest) : (s.request r).epoch = s.epoch := rfl

/-! `State.violate` -/

@[simp] theorem State.violate_cfg (r : Refusal) : (s.violate r).cfg = s.cfg := rfl
@[simp] theorem State.violate_ring (r : Refusal) : (s.violate r).ring = [] := rfl
@[simp] theorem State.violate_startCur (r : Refusal) :
    (s.violate r).startCur = (Config.afterViolation s.epoch).startCur := rfl
@[simp] theorem State.violate_endCur (r : Refusal) :
    (s.violate r).endCur = (Config.afterViolation s.epoch).endCur := rfl
@[simp] theorem State.violate_ovf (r : Refusal) : (s.violate r).ovf = (Config.afterViolation s.epoch).ovf := rfl
@[simp] theorem State.violate_astate (r : Refusal) :
    (s.violate r).astate = (Config.afterViolation s.epoch).astate := rfl
@[simp] theorem State.violate_och (r : Refusal) : (s.violate r).och = (Config.afterViolation s.epoch).och := rfl
@[simp] theorem State.violate_ofmt (r : Refusal) : (s.violate r).ofmt = (Config.afterViolation s.epoch).ofmt := rfl
@[simp] theorem State.violate_lock (r : Refusal) : (s.violate r).lock = (Config.afterViolation s.epoch).lock := rfl
@[simp] theorem State.violate_outbuf (r : Refusal) : (s.violate r).outbuf = [] := rfl
@[simp] theorem State.violate_cur (r : Refusal) : (s.violate r).cur = s.cur := rfl
@[simp] theorem State.violate_prev (r : Refusal) : (s.violate r).prev = [] := rfl
@[simp] theorem State.violate_cpl (r : Refusal) : (s.violate r).cpl = s.cpl := rfl
@[simp] theorem State.violate_pixout (r : Refusal) : (s.violate r).pixout = [] := rfl
@[simp] theorem State.violate_rf (r : Refusal) : (s.violate r).rf = (Config.afterViolation s.epoch).rf := rfl
@[simp] theorem State.violate_inv (r : Refusal) : (s.violate r).inv = s.inv := rfl
@[simp] theorem State.violate_chroma (r : Refusal) : (s.violate r).chroma = s.chroma := rfl
@[simp] theorem State.violate_fbrdy (r : Refusal) : (s.violate r).fbrdy = s.fbrdy := rfl
@[simp] theorem State.violate_kr (r : Refusal) : (s.violate r).kr = (Config.afterViolation s.epoch).kr := rfl
@[simp] theorem State.violate_keystate (r : Refusal) : (s.violate r).keystate = s.keystate := rfl
@[simp] theorem State.violate_active (r : Refusal) : (s.violate r).active = s.active := rfl
@[simp] theorem State.violate_paused (r : Refusal) : (s.violate r).paused = s.paused := rfl
@[simp] theorem State.violate_resetIn (r : Refusal) : (s.violate r).resetIn = s.resetIn := rfl
@[simp] theorem State.violate_portP (r : Refusal) : (s.violate r).portP = s.portP := rfl
@[simp] theorem State.violate_portC (r : Refusal) : (s.violate r).portC = s.portC := rfl
@[simp] theorem State.violate_responses (r : Refusal) :
    (s.violate r).responses = s.responses ++ (Config.afterViolation s.epoch).responses := rfl
@[simp] theorem State.violate_requests (r : Refusal) :
    (s.violate r).requests = s.requests ++ (Config.afterViolation s.epoch).requests := rfl
@[simp] theorem State.violate_mark (r : Refusal) : (s.violate r).mark = some r := rfl
@[simp] theorem State.violate_turns (r : Refusal) : (s.violate r).turns = s.turns := rfl
@[simp] theorem State.violate_devAnswers (r : Refusal) : (s.violate r).devAnswers = s.devAnswers := rfl
@[simp] theorem State.violate_draws (r : Refusal) : (s.violate r).draws = s.draws := rfl
@[simp] theorem State.violate_epoch (r : Refusal) : (s.violate r).epoch = s.epoch + 1 := rfl

/-! `State.assertReset` -/

@[simp] theorem State.assertReset_cfg : (s.assertReset).cfg = s.cfg := rfl
@[simp] theorem State.assertReset_ring : (s.assertReset).ring = [] := rfl
@[simp] theorem State.assertReset_startCur : (s.assertReset).startCur = 0 := rfl
@[simp] theorem State.assertReset_endCur : (s.assertReset).endCur = 0 := rfl
@[simp] theorem State.assertReset_ovf : (s.assertReset).ovf = 0#32 := rfl
@[simp] theorem State.assertReset_astate : (s.assertReset).astate = .idle := rfl
@[simp] theorem State.assertReset_och : (s.assertReset).och = 0#3 := rfl
@[simp] theorem State.assertReset_ofmt : (s.assertReset).ofmt = .unsigned8 := rfl
@[simp] theorem State.assertReset_lock : (s.assertReset).lock = .free := rfl
@[simp] theorem State.assertReset_outbuf : (s.assertReset).outbuf = s.outbuf := rfl
@[simp] theorem State.assertReset_cur : (s.assertReset).cur = s.cur := rfl
@[simp] theorem State.assertReset_prev : (s.assertReset).prev = [] := rfl
@[simp] theorem State.assertReset_cpl : (s.assertReset).cpl = s.cpl := rfl
@[simp] theorem State.assertReset_pixout : (s.assertReset).pixout = s.pixout := rfl
@[simp] theorem State.assertReset_rf : (s.assertReset).rf = true := rfl
@[simp] theorem State.assertReset_inv : (s.assertReset).inv = s.inv := rfl
@[simp] theorem State.assertReset_chroma : (s.assertReset).chroma = s.chroma := rfl
@[simp] theorem State.assertReset_fbrdy : (s.assertReset).fbrdy = s.fbrdy := rfl
@[simp] theorem State.assertReset_kr : (s.assertReset).kr = Rows.reset := rfl
@[simp] theorem State.assertReset_keystate : (s.assertReset).keystate = s.keystate := rfl
@[simp] theorem State.assertReset_active : (s.assertReset).active = s.active := rfl
@[simp] theorem State.assertReset_paused : (s.assertReset).paused = s.paused := rfl
@[simp] theorem State.assertReset_resetIn : (s.assertReset).resetIn = true := rfl
@[simp] theorem State.assertReset_portP : (s.assertReset).portP = s.portP := rfl
@[simp] theorem State.assertReset_portC : (s.assertReset).portC = s.portC := rfl
@[simp] theorem State.assertReset_responses : (s.assertReset).responses = s.responses := rfl
@[simp] theorem State.assertReset_requests : (s.assertReset).requests = s.requests := rfl
@[simp] theorem State.assertReset_mark : (s.assertReset).mark = none := rfl
@[simp] theorem State.assertReset_turns : (s.assertReset).turns = s.turns := rfl
@[simp] theorem State.assertReset_devAnswers : (s.assertReset).devAnswers = s.devAnswers := rfl
@[simp] theorem State.assertReset_draws : (s.assertReset).draws = s.draws := rfl
@[simp] theorem State.assertReset_epoch : (s.assertReset).epoch = s.epoch + 1 := rfl

end Sys2Proof.Machine
end

