-- ==== Sys2Proof/Laws/Audio.lean ====
section
/-! SUPPORT. What the ring operations do: the size of the ring, one `push1`, the loop of PUSH and the loop of PULL, each
said once in closed form. -/

namespace Sys2Proof.Machine

/-- Both cursors are in `0 .. N-1` (10_state.md R22, R23). -/
def State.CursorsOk (s : State) : Prop := s.startCur < s.cfg.n ∧ s.endCur < s.cfg.n

theorem State.AudioOk.cursorsOk {s : State} (h : s.AudioOk) : s.CursorsOk := ⟨h.start_lt, h.end_lt⟩

/-- The size of the ring without a residue. -/
theorem State.ringSize_eq {s : State} (h : s.CursorsOk) :
    s.ringSize = if s.startCur ≤ s.endCur then s.endCur - s.startCur else s.endCur + s.cfg.n - s.startCur := by
  obtain ⟨hs, he⟩ := h
  rw [State.ringSize, Nat.mod_eq_of_lt hs]
  split
  · rw [show s.endCur + (s.cfg.n - s.startCur) = s.endCur - s.startCur + s.cfg.n by omega, Nat.add_mod_right,
      Nat.mod_eq_of_lt (by omega)]
  · rw [Nat.mod_eq_of_lt (by omega)]; omega

theorem State.ringSize_lt {s : State} (h : s.CursorsOk) : s.ringSize < s.cfg.n := by
  rw [State.ringSize_eq h]; obtain ⟨hs, he⟩ := h; split <;> omega

theorem State.ringSize_eq_zero {s : State} (h : s.CursorsOk) : s.ringSize = 0 ↔ s.endCur = s.startCur := by
  rw [State.ringSize_eq h]; obtain ⟨hs, he⟩ := h; split <;> omega

/-- The slot of a resident sample is not the one `end` names (40_audio_ring.md R142). -/
theorem State.resident_slot_ne_end {s : State} (h : s.CursorsOk) {j : Nat} (hj : j < s.ringSize) :
    (s.startCur + j) % s.cfg.n ≠ s.endCur := by
  rw [State.ringSize_eq h] at hj
  obtain ⟨hs, he⟩ := h
  rcases Nat.lt_or_ge (s.startCur + j) s.cfg.n with hlt | hge
  · rw [Nat.mod_eq_of_lt hlt]; split at hj <;> omega
  · rw [Nat.mod_eq_sub_mod hge, Nat.mod_eq_of_lt (by split at hj <;> omega)]; split at hj <;> omega

/-- Walking `size` slots from the read cursor reaches the write cursor. -/
theorem State.start_add_ringSize {s : State} (h : s.CursorsOk) : (s.startCur + s.ringSize) % s.cfg.n = s.endCur := by
  rw [State.ringSize_eq h]
  obtain ⟨hs, he⟩ := h
  split
  · rw [show s.startCur + (s.endCur - s.startCur) = s.endCur by omega, Nat.mod_eq_of_lt he]
  · rw [show s.startCur + (s.endCur + s.cfg.n - s.startCur) = s.endCur + s.cfg.n by omega, Nat.add_mod_right,
      Nat.mod_eq_of_lt he]

theorem succ_mod_eq {a n : Nat} (h : a < n) : (a + 1) % n = if a + 1 = n then 0 else a + 1 := by
  split
  · simp_all
  · exact Nat.mod_eq_of_lt (by omega)

theorem State.CursorsOk.writeSlot {s : State} (h : s.CursorsOk) (v : Sample) : (s.writeSlot v).CursorsOk :=
  ⟨h.1, Nat.mod_lt _ (by have := h.1; simp; omega)⟩

theorem State.CursorsOk.advanceStart {s : State} (h : s.CursorsOk) : s.advanceStart.CursorsOk :=
  ⟨Nat.mod_lt _ (by have := h.1; simp; omega), h.2⟩

/-- After the write the cursors meet exactly when the ring was at capacity (10_state.md R24). -/
theorem State.writeSlot_meets_iff {s : State} (h : s.CursorsOk) (v : Sample) :
    (s.writeSlot v).cursorsMeet = true ↔ s.ringSize = s.cfg.n - 1 := by
  rw [State.ringSize_eq h, State.cursorsMeet, decide_eq_true_eq, State.writeSlot_endCur, State.writeSlot_startCur,
    succ_mod_eq h.2]
  obtain ⟨hs, he⟩ := h
  split <;> split <;> omega

theorem State.ringAt_writeSlot (s : State) (v : Sample) (a : Nat) :
    (s.writeSlot v).ringAt a = if a = s.endCur then v else s.ringAt a := by
  simp only [State.ringAt, Memory.read, State.writeSlot_ring, State.writeSlot_epoch, Memory.get?_set]
  split <;> rfl

/-- What one `push1` does to the state: the write, the advance of `end`, and on a collision the advance of `start` and
the count (40_audio_ring.md R142). -/
theorem State.push1_eq {s : State} (h : s.CursorsOk) (v : Sample) :
    s.push1 v = { s with
      ring := s.ring.set s.endCur v
      endCur := (s.endCur + 1) % s.cfg.n
      startCur := (s.startCur + (s.ringSize + 1 - (s.cfg.n - 1))) % s.cfg.n
      ovf := s.ovf + BitVec.ofNat 32 (s.ringSize + 1 - (s.cfg.n - 1)) } := by
  have hlt := State.ringSize_lt h
  simp only [State.push1]
  split
  · rename_i hm
    rw [(State.writeSlot_meets_iff h v).1 hm, show s.cfg.n - 1 + 1 - (s.cfg.n - 1) = 1 by omega]
    rfl
  · rename_i hm
    rw [State.writeSlot_meets_iff h v] at hm
    rw [show s.ringSize + 1 - (s.cfg.n - 1) = 0 by omega, Nat.add_zero, Nat.mod_eq_of_lt h.1]
    simp [State.writeSlot]

theorem State.CursorsOk.push1 {s : State} (h : s.CursorsOk) (v : Sample) : (s.push1 v).CursorsOk := by
  have := h.1
  rw [State.push1_eq h]
  exact ⟨Nat.mod_lt _ (by omega), Nat.mod_lt _ (by omega)⟩

theorem State.ringSize_push1 {s : State} (h : s.CursorsOk) (v : Sample) :
    (s.push1 v).ringSize = min (s.ringSize + 1) (s.cfg.n - 1) := by
  rw [State.ringSize_eq (h.push1 v), State.push1_eq h]
  have hsz := State.ringSize_eq h
  simp only
  rw [succ_mod_eq h.2]
  obtain ⟨hs, he⟩ := h
  by_cases hc : s.ringSize = s.cfg.n - 1
  · rw [hc, show s.cfg.n - 1 + 1 - (s.cfg.n - 1) = 1 by omega, succ_mod_eq hs]
    split at hsz <;> split <;> split <;> split <;> omega
  · have : s.ringSize + 1 - (s.cfg.n - 1) = 0 := by split at hsz <;> omega
    rw [this, Nat.add_zero, Nat.mod_eq_of_lt hs]
    split at hsz <;> split <;> split <;> omega

theorem State.length_resident (s : State) : s.resident.length = s.ringSize := by
  simp [State.resident, State.samplesFrom]

/-- What one `push1` does to the resident samples: the new one joins, the oldest one leaves if there is no room. -/
theorem State.resident_push1 {s : State} (h : s.CursorsOk) (v : Sample) :
    (s.push1 v).resident = (s.resident ++ [v]).drop (s.ringSize + 1 - (s.cfg.n - 1)) := by
  have hlt := State.ringSize_lt h
  have hz : (s.push1 v).ringSize = s.ringSize + 1 - (s.ringSize + 1 - (s.cfg.n - 1)) := by
    rw [State.ringSize_push1 h]; omega
  apply List.ext_getElem
  · simp [State.length_resident, hz]
  intro j hj _
  rw [State.length_resident, hz] at hj
  rw [List.getElem_drop]
  simp only [State.resident, State.samplesFrom, List.getElem_map, List.getElem_range]
  have hat : (s.push1 v).ringAt = (s.writeSlot v).ringAt := by
    funext a; rw [State.push1_eq h]; rfl
  have hcfg : (s.push1 v).cfg = s.cfg := by rw [State.push1_eq h]
  have hst : (s.push1 v).startCur = (s.startCur + (s.ringSize + 1 - (s.cfg.n - 1))) % s.cfg.n := by
    rw [State.push1_eq h]
  rw [hat, hcfg, hst, Nat.mod_add_mod, State.ringAt_writeSlot, Nat.add_assoc]
  generalize hd : s.ringSize + 1 - (s.cfg.n - 1) = d at *
  rcases Nat.lt_or_ge (d + j) s.ringSize with hlt' | hge
  · rw [if_neg (State.resident_slot_ne_end h hlt'), List.getElem_append_left (by simpa using hlt')]
    simp
  · have : d + j = s.ringSize := by omega
    rw [if_pos (by rw [this, State.start_add_ringSize h]), List.getElem_append_right (by simpa using hge)]
    simp

theorem State.pushAll_nil (s : State) : s.pushAll [] = s := rfl

theorem State.pushAll_cons (s : State) (v : Sample) (vs : List Sample) :
    s.pushAll (v :: vs) = (s.push1 v).pushAll vs := rfl

/-- Everything the loop of PUSH does, in closed form (40_audio_ring.md R141): the cursors, the counter and the frame. -/
theorem State.pushAll_eq {s : State} (h : s.CursorsOk) (vs : List Sample) :
    s.pushAll vs = { s with
      ring := (s.pushAll vs).ring
      endCur := (s.endCur + vs.length) % s.cfg.n
      startCur := (s.startCur + (s.ringSize + vs.length - (s.cfg.n - 1))) % s.cfg.n
      ovf := s.ovf + BitVec.ofNat 32 (s.ringSize + vs.length - (s.cfg.n - 1)) } := by
  induction vs generalizing s with
  | nil =>
    have hlt := State.ringSize_lt h
    simp only [State.pushAll_nil, List.length_nil, Nat.add_zero]
    rw [show s.ringSize - (s.cfg.n - 1) = 0 by omega, Nat.add_zero, Nat.mod_eq_of_lt h.1, Nat.mod_eq_of_lt h.2]
    simp
  | cons v vs ih =>
    have hz := State.ringSize_push1 h v
    have hlt := State.ringSize_lt h
    rw [State.pushAll_cons, ih (h.push1 v), hz]
    rw [State.push1_eq h]
    simp only [List.length_cons, Nat.mod_add_mod, Nat.add_assoc, State.mk.injEq, true_and, and_true,
      BitVec.add_assoc, ← BitVec.ofNat_add]
    refine ⟨?_, ?_, ?_⟩
    · congr 2; omega
    · congr 2; omega
    · congr 2; omega

/-- The loop of PUSH keeps the last `N - 1` of the old resident samples and the new ones (40_audio_ring.md R141). -/
theorem State.resident_pushAll {s : State} (h : s.CursorsOk) (vs : List Sample) :
    (s.pushAll vs).resident = (s.resident ++ vs).drop (s.ringSize + vs.length - (s.cfg.n - 1)) := by
  induction vs generalizing s with
  | nil =>
    have hlt := State.ringSize_lt h
    simp [State.pushAll_nil, show s.ringSize - (s.cfg.n - 1) = 0 by omega]
  | cons v vs ih =>
    have hlt := State.ringSize_lt h
    have hcfg : (s.push1 v).cfg = s.cfg := by rw [State.push1_eq h]
    rw [State.pushAll_cons, ih (h.push1 v), State.ringSize_push1 h, State.resident_push1 h, hcfg]
    rw [← List.drop_append_of_le_length (by simp [State.length_resident]), List.drop_drop,
      List.append_assoc, List.singleton_append, List.length_cons]
    congr 1; omega

theorem State.CursorsOk.pushAll {s : State} (h : s.CursorsOk) (vs : List Sample) : (s.pushAll vs).CursorsOk := by
  have := h.1
  rw [State.pushAll_eq h]
  exact ⟨Nat.mod_lt _ (by omega), Nat.mod_lt _ (by omega)⟩

/-- A ring slot that no sample of the burst is written to keeps its cell. -/
theorem State.get?_ring_pushAll {s : State} (h : s.CursorsOk) (vs : List Sample) {a : Nat}
    (ha : ∀ j < vs.length, a ≠ (s.endCur + j) % s.cfg.n) :
    Memory.get? (s.pushAll vs).ring a = Memory.get? s.ring a := by
  induction vs generalizing s with
  | nil => rfl
  | cons v vs ih =>
    have h1 := State.push1_eq h v
    rw [State.pushAll_cons, ih (h.push1 v)]
    · rw [h1]
      exact Memory.get?_set_ne _ _ (by simpa [Nat.mod_eq_of_lt h.2] using ha 0 (by simp))
    · intro j hj
      rw [h1]
      simpa [Nat.add_assoc, Nat.add_comm 1 j] using ha (j + 1) (by simpa using hj)

/-- The loop of PUSH touches the ring, the cursors and the counter, in every state. -/
theorem State.pushAll_frame (s : State) (vs : List Sample) :
    ∃ r e st o, s.pushAll vs = { s with ring := r, endCur := e, startCur := st, ovf := o } := by
  induction vs generalizing s with
  | nil => exact ⟨_, _, _, _, rfl⟩
  | cons v vs ih =>
    obtain ⟨_, _, _, _, h⟩ := ih (s.push1 v)
    have h1 : ∃ r e st o, s.push1 v = { s with ring := r, endCur := e, startCur := st, ovf := o } := by
      unfold State.push1; simp only; split <;> exact ⟨_, _, _, _, rfl⟩
    obtain ⟨_, _, _, _, h1⟩ := h1
    rw [State.pushAll_cons, h, h1]
    exact ⟨_, _, _, _, rfl⟩

/-! The loop of PULL. -/

/-- The loop of PULL touches the read cursor and OUTBUF, in every state. -/
theorem State.pullLoop_frame (s : State) (k i : Nat) :
    ∃ st o, s.pullLoop k i = { s with startCur := st, outbuf := o } := by
  induction k generalizing s i with
  | zero => exact ⟨_, _, rfl⟩
  | succ k ih =>
    simp only [State.pullLoop]
    split
    · exact ⟨_, _, rfl⟩
    · obtain ⟨_, _, h⟩ := ih (s.deliver i) (i + 1)
      rw [h]; exact ⟨_, _, rfl⟩

theorem length_sampleBytes (fmt : SampleFormat) (v : Sample) : (sampleBytes fmt v).length = bytesPerSample fmt := by
  cases fmt <;> rfl

theorem length_frameBytes (s : State) (v : Sample) : (frameBytes s.och s.ofmt v).length = s.frameSize := by
  simp [frameBytes, State.frameSize, length_sampleBytes]

theorem Memory.setRun_append {α : Type} (m : Memory α) (a : Nat) (xs ys : List α) :
    Memory.setRun m a (xs ++ ys) = Memory.setRun (Memory.setRun m a xs) (a + xs.length) ys := by
  induction xs generalizing m a with
  | nil => rfl
  | cons x xs ih => simp [Memory.setRun, ih, Nat.add_assoc, Nat.add_comm 1]

theorem State.samplesFrom_succ {s : State} (h : s.startCur < s.cfg.n) (d : Nat) :
    s.samplesFrom (d + 1) = s.ringAt s.startCur :: s.advanceStart.samplesFrom d := by
  simp only [State.samplesFrom, List.range_succ_eq_map, List.map_cons, List.map_map, Nat.add_zero,
    Nat.mod_eq_of_lt h, List.cons.injEq, true_and]
  apply List.map_congr_left
  intro j _
  simp [State.ringAt, Nat.add_assoc, Nat.add_comm 1 j]

theorem State.ringSize_advanceStart {s : State} (h : s.CursorsOk) (hne : s.endCur ≠ s.startCur) :
    s.advanceStart.ringSize + 1 = s.ringSize := by
  rw [State.ringSize_eq h, State.ringSize_eq h.advanceStart]
  change (if (s.startCur + 1) % s.cfg.n ≤ s.endCur then s.endCur - (s.startCur + 1) % s.cfg.n
    else s.endCur + s.cfg.n - (s.startCur + 1) % s.cfg.n) + 1 = _
  rw [succ_mod_eq h.1]
  obtain ⟨hs, he⟩ := h
  split <;> split <;> split <;> omega

/-- Everything the loop of PULL does, in closed form (40_audio_ring.md R143, R144): it delivers as many frames as are
asked for and there are samples, one after the other from output frame `i` on, and moves `start` past them. -/
theorem State.pullLoop_eq {s : State} (h : s.CursorsOk) (k i : Nat) :
    s.pullLoop k i = { s with
      startCur := (s.startCur + min k s.ringSize) % s.cfg.n
      outbuf := s.outbuf.setRun (i * s.frameSize)
        ((s.samplesFrom (min k s.ringSize)).flatMap (frameBytes s.och s.ofmt)) } := by
  induction k generalizing s i with
  | zero => simp [State.pullLoop, State.samplesFrom, Memory.setRun, Nat.mod_eq_of_lt h.1]
  | succ k ih =>
    simp only [State.pullLoop]
    split
    · rename_i hm
      have hz : s.ringSize = 0 := (State.ringSize_eq_zero h).2 (by simpa [State.cursorsMeet] using hm)
      simp [hz, State.samplesFrom, Memory.setRun, Nat.mod_eq_of_lt h.1]
    · rename_i hm
      have hz := State.ringSize_advanceStart h (by simpa [State.cursorsMeet] using hm)
      have hd : (s.deliver i).CursorsOk := h.advanceStart
      have hsz : (s.deliver i).ringSize = s.advanceStart.ringSize := rfl
      have hfs : (s.deliver i).frameSize = s.frameSize := rfl
      have hsf : (s.deliver i).samplesFrom = s.advanceStart.samplesFrom := rfl
      rw [ih hd, hsz, hfs, hsf, ← hz, Nat.succ_min_succ, State.samplesFrom_succ h.1, List.flatMap_cons,
        Memory.setRun_append, length_frameBytes]
      simp [Nat.add_assoc, Nat.add_comm 1, Nat.add_mul, State.deliver, State.advanceStart]

/-- The size of a ring whose read cursor has moved past `d` resident samples. -/
theorem State.ringSize_advanced {s t : State} {d : Nat} (h : s.CursorsOk) (hd : d ≤ s.ringSize) (hc : t.cfg = s.cfg)
    (hs : t.startCur = (s.startCur + d) % s.cfg.n) (he : t.endCur = s.endCur) : t.ringSize = s.ringSize - d := by
  have hn := h.1
  have ht : t.CursorsOk := ⟨by rw [hs, hc]; exact Nat.mod_lt _ (by omega), by rw [he, hc]; exact h.2⟩
  have hlt := State.ringSize_lt h
  have hlt' := State.ringSize_lt ht
  have hwalk := State.start_add_ringSize ht
  rw [hs, he, hc, Nat.mod_add_mod, ← State.start_add_ringSize h, Nat.add_assoc] at hwalk
  rw [hc] at hlt'
  have hmod : d + t.ringSize ≡ d + (s.ringSize - d) [MOD s.cfg.n] := by
    rw [Nat.add_sub_cancel' hd]; exact Nat.ModEq.add_left_cancel' _ hwalk
  have := Nat.ModEq.add_left_cancel' _ hmod
  rwa [Nat.ModEq, Nat.mod_eq_of_lt hlt', Nat.mod_eq_of_lt (by omega)] at this

theorem State.CursorsOk.pullLoop {s : State} (h : s.CursorsOk) (k i : Nat) : (s.pullLoop k i).CursorsOk := by
  have := h.1
  rw [State.pullLoop_eq h]
  exact ⟨Nat.mod_lt _ (by omega), h.2⟩

theorem State.ringSize_pullLoop {s : State} (h : s.CursorsOk) (k i : Nat) :
    (s.pullLoop k i).ringSize = s.ringSize - min k s.ringSize := by
  rw [State.pullLoop_eq h]
  exact State.ringSize_advanced h (min_le_right _ _) rfl rfl rfl

/-- What the loop of PULL delivers are the oldest resident samples. -/
theorem State.samplesFrom_eq_take (s : State) {d : Nat} (hd : d ≤ s.ringSize) : s.samplesFrom d = s.resident.take d := by
  rw [State.resident, State.samplesFrom, State.samplesFrom, ← List.map_take, List.take_range, min_eq_left hd]

/-- The loop of PULL removes the oldest resident samples and keeps the others in order. -/
theorem State.resident_pullLoop {s : State} (h : s.CursorsOk) (k i : Nat) :
    (s.pullLoop k i).resident = s.resident.drop (min k s.ringSize) := by
  apply List.ext_getElem
  · simp only [List.length_drop, State.length_resident, State.ringSize_pullLoop h]
  · intro j _ _
    have hst : (s.pullLoop k i).startCur = (s.startCur + min k s.ringSize) % s.cfg.n := by rw [State.pullLoop_eq h]
    have hcfg : (s.pullLoop k i).cfg = s.cfg := by rw [State.pullLoop_eq h]
    have hat : (s.pullLoop k i).ringAt = s.ringAt := by rw [State.pullLoop_eq h]; rfl
    simp only [State.resident, State.samplesFrom, List.getElem_drop, List.getElem_map, List.getElem_range, hst, hcfg,
      hat, Nat.mod_add_mod, Nat.add_assoc]

end Sys2Proof.Machine
end

