-- ==== Sys2Proof/Laws/Decode.lean ====
section
/-! SUPPORT. The decoder's tables agree with the encoder's, taking beats is the inverse of presenting them, and the
host's `decodeTableWord` is the decoder on the items laid out. -/

namespace Sys2Proof

@[simp] theorem Op.ofByte_byte (op : Op) : Op.ofByte op.byte = some op := by cases op <;> rfl

@[simp] theorem SampleFormat.ofBit_toBit (f : SampleFormat) : SampleFormat.ofBit f.toBit = f := by cases f <;> rfl

/-- Beats presented are beats taken, and the rest of the stream stays (30_encoding.md R113). -/
theorem takeBeats_append {Act : Type} (vs : List Sample) (rest : List (PortItem Act)) :
    takeBeats vs.length (vs.map PortItem.beat ++ rest) = .ok (vs, rest) := by
  induction vs with
  | nil => rfl
  | cons v vs ih => simp [takeBeats, ih]

/-- What taking beats says of the stream. -/
theorem takeBeats_ok {Act : Type} {n : Nat} {items rest : List (PortItem Act)} {vs : List Sample}
    (h : takeBeats n items = .ok (vs, rest)) : vs.length = n ∧ items = vs.map PortItem.beat ++ rest := by
  induction n generalizing items vs with
  | zero => simp [takeBeats] at h; obtain ⟨rfl, rfl⟩ := h; simp
  | succ n ih =>
    cases items with
    | nil => simp [takeBeats] at h
    | cons x items =>
      cases x with
      | word w => simp [takeBeats] at h
      | act a => simp [takeBeats] at h
      | beat v =>
        simp only [takeBeats] at h
        split at h
        · rename_i vs' rest' h'
          obtain ⟨rfl, rfl⟩ : v :: vs' = vs ∧ rest' = rest := by simpa using h
          obtain ⟨rfl, rfl⟩ := ih h'
          simp
        · simp at h

theorem length_beatsOfNat (n b : Nat) : (beatsOfNat n b).length = n := by
  induction n generalizing b with
  | zero => rfl
  | succ n ih => simp [beatsOfNat, ih]

/-- `decodeTableWord` gives what the decoder gives on the word and its beats. -/
theorem decodeTableWord_eq_decode (Act : Type) (nbits w : Nat) :
    decodeTableWord nbits w =
      (decode (portOfWord (tableWord nbits w))
        (.word (tableWord nbits w) :: (tableBeats nbits w).map (PortItem.beat (Act := Act)))).toOption.map Prod.fst := by
  simp only [decodeTableWord, decode, tableBeats]
  cases hd : decodeWord (portOfWord (tableWord nbits w)) (tableWord nbits w) with
  | error e => rfl
  | ok h =>
    have ht := takeBeats_append (Act := Act) (beatsOfNat h.beats (w % 2 ^ nbits / 2 ^ 32)) []
    rw [length_beatsOfNat, List.append_nil] at ht
    simp only [ht]; rfl

end Sys2Proof
end

