-- ==== Sys2Proof/Laws/Keys.lean ====
section
/-! SUPPORT. The row registers and the bits of a row. -/

namespace Sys2Proof.Machine

theorem forall_row {p : BitVec 3 → Prop} :
    (∀ r, p r) ↔ p 0#3 ∧ p 1#3 ∧ p 2#3 ∧ p 3#3 ∧ p 4#3 ∧ p 5#3 ∧ p 6#3 ∧ p 7#3 := by
  constructor
  · intro h; exact ⟨h _, h _, h _, h _, h _, h _, h _, h _⟩
  · rintro ⟨h0, h1, h2, h3, h4, h5, h6, h7⟩ ⟨⟨n, hn⟩⟩
    interval_cases n <;> assumption

@[simp] theorem Rows.get_ofFn (f : BitVec 3 → Byte) (r : BitVec 3) : (Rows.ofFn f).get r = f r := by
  revert r; rw [forall_row]; exact ⟨rfl, rfl, rfl, rfl, rfl, rfl, rfl, rfl⟩

@[simp] theorem Rows.get_reset (r : BitVec 3) : Rows.reset.get r = 0xFF#8 := by
  revert r; rw [forall_row]; exact ⟨rfl, rfl, rfl, rfl, rfl, rfl, rfl, rfl⟩

/-- Rows are equal when all eight are. -/
theorem Rows.ext_get {k k' : Rows} (h : ∀ r, k.get r = k'.get r) : k = k' := by
  obtain ⟨h0, h1, h2, h3, h4, h5, h6, h7⟩ := forall_row.1 h
  cases k; cases k'; simp_all [Rows.get]

/-- One weight joined to an accumulator, bit by bit. -/
theorem getLsbD_join (p : Bool) (b c : Byte) (j : Nat) :
    (if p then b ||| c else b).getLsbD j = (b.getLsbD j || (p && c.getLsbD j)) := by
  cases p <;> simp

/-- Bit `j` of the accumulator is the pressed slot of weight `2^j`; no bit above 4 is set (42_key_matrix.md R212). -/
theorem State.rowAccumulator_bit (s : State) (r : BitVec 3) (j : Nat) :
    (s.rowAccumulator r).getLsbD j = (decide (j < 5) && s.pressed r j) := by
  have h5 : List.range 5 = [0, 1, 2, 3, 4] := by decide
  rw [State.rowAccumulator, h5]
  rcases Nat.lt_or_ge j 8 with hj | hj
  · simp only [List.foldl_cons, List.foldl_nil, getLsbD_join]
    interval_cases j <;> simp
  · rw [BitVec.getLsbD_of_ge _ _ hj, show decide (j < 5) = false by simp; omega, Bool.false_and]

/-- The row formula bit by bit (42_key_matrix.md R212). -/
theorem rowOf_bit (b : Byte) {j : Nat} (hj : j < 5) : (rowOf b).getLsbD j = !b.getLsbD j := by
  interval_cases j <;> simp [rowOf]

theorem rowOf_top (b : Byte) : (rowOf b).extractLsb' 5 3 = 0b111#3 := by
  apply BitVec.eq_of_getLsbD_eq
  intro i hi
  interval_cases i <;> simp [rowOf]

end Sys2Proof.Machine
end

