-- ==== Sys2Proof/Laws/Screen.lean ====
section
/-! SUPPORT. What RENDER's list of pixel writes holds, and what PIXOUT holds after it. -/

namespace Sys2Proof.Machine

/-- The pixel writes are those of the visible cells that are not skipped (41_screen_diff.md R180, R181). -/
theorem State.mem_renderWrites {s : State} {w : Nat × Pixel} :
    w ∈ s.renderWrites ↔ ∃ y < s.cfg.visH, ∃ cx < s.cfg.visW / 8, s.skipped y cx = false ∧
      ∃ k < 8, w = (s.cfg.pixelAddr (8 * cx + k) y, s.cellPixel y cx k) := by
  simp only [State.renderWrites, List.mem_flatMap, List.mem_range, State.cellWrites]
  constructor
  · rintro ⟨y, hy, cx, hcx, hw⟩
    split at hw
    · simp at hw
    · rename_i hs
      obtain ⟨k, hk, rfl⟩ := List.mem_map.1 hw
      exact ⟨y, hy, cx, hcx, by simpa using hs, k, List.mem_range.1 hk, rfl⟩
  · rintro ⟨y, hy, cx, hcx, hsk, k, hk, rfl⟩
    refine ⟨y, hy, cx, hcx, ?_⟩
    rw [if_neg (by simp [hsk])]
    exact List.mem_map.2 ⟨k, List.mem_range.2 hk, rfl⟩

/-- Pixel `k` of visible cell `(y, cx)` determines the cell and `k` (20_memory.md R71). -/
theorem Config.pixelAddr_inj {c : Config} {y cx k y' cx' k' : Nat} (hcx : cx < c.visW / 8) (hk : k < 8)
    (hcx' : cx' < c.visW / 8) (hk' : k' < 8)
    (h : c.pixelAddr (8 * cx + k) y = c.pixelAddr (8 * cx' + k') y') : y = y' ∧ cx = cx' ∧ k = k' := by
  simp only [Config.pixelAddr] at h
  have hy : y = y' := by
    have h1 := congrArg (· / c.visW) h
    simpa [Nat.mul_comm _ c.visW, Nat.mul_add_div (show 0 < c.visW by omega),
      Nat.div_eq_of_lt (show 8 * cx + k < c.visW by omega),
      Nat.div_eq_of_lt (show 8 * cx' + k' < c.visW by omega)] using h1
  subst hy
  omega

theorem Config.pixelAddr_lt {c : Config} {y cx k : Nat} (hy : y < c.visH) (hcx : cx < c.visW / 8) (hk : k < 8) :
    c.pixelAddr (8 * cx + k) y < Space.size c .pixout := by
  have : y * c.visW + c.visW ≤ c.visH * c.visW := by
    rw [← Nat.succ_mul]; exact Nat.mul_le_mul_right _ hy
  simp only [Config.pixelAddr, Space.size]
  rw [Nat.mul_comm c.visW]
  omega

/-- A pixel of a cell that is not skipped takes the value RENDER computes for it. -/
theorem State.get?_render_written {s : State} {y cx k : Nat} (hy : y < s.cfg.visH) (hcx : cx < s.cfg.visW / 8)
    (hs : s.skipped y cx = false) (hk : k < 8) :
    Memory.get? (Memory.setAll s.pixout s.renderWrites) (s.cfg.pixelAddr (8 * cx + k) y) =
      some (s.cellPixel y cx k) := by
  apply Memory.get?_setAll_of_mem
  · exact State.mem_renderWrites.2 ⟨y, hy, cx, hcx, hs, k, hk, rfl⟩
  · intro w hw ha
    obtain ⟨y', _, cx', hcx', _, k', hk', rfl⟩ := State.mem_renderWrites.1 hw
    obtain ⟨rfl, rfl, rfl⟩ := Config.pixelAddr_inj hcx' hk' hcx hk ha
    rfl

@[simp] theorem State.paint_curAt (s : State) : s.paint.curAt = s.curAt := rfl
@[simp] theorem State.rebaseline_curAt (s : State) : s.rebaseline.curAt = s.curAt := rfl
@[simp] theorem State.clearRefresh_curAt (s : State) : s.clearRefresh.curAt = s.curAt := rfl
@[simp] theorem State.clearRefresh_prevAt (s : State) : s.clearRefresh.prevAt = s.prevAt := rfl

/-- After the bulk copy PREV reads as CUR, in the whole padded buffer (41_screen_diff.md R184). -/
theorem State.rebaseline_prevAt (s : State) {a : Nat} (h : a < Space.size s.cfg .prev) :
    s.rebaseline.prevAt a = s.curAt a :=
  Memory.read_of_get? (by rw [State.rebaseline_prev, Memory.get?_tabulate, if_pos h])

/-- Every other pixel keeps its value. -/
theorem State.get?_render_kept {s : State} {a : Nat}
    (h : ∀ y < s.cfg.visH, ∀ cx < s.cfg.visW / 8, s.skipped y cx = false → ∀ k < 8,
      s.cfg.pixelAddr (8 * cx + k) y ≠ a) :
    Memory.get? (Memory.setAll s.pixout s.renderWrites) a = Memory.get? s.pixout a := by
  apply Memory.get?_setAll_of_not_mem
  intro w hw
  obtain ⟨y, hy, cx, hcx, hsk, k, hk, rfl⟩ := State.mem_renderWrites.1 hw
  exact h y hy cx hcx hsk k hk

end Sys2Proof.Machine
end

