-- ==== Sys2Proof/Laws/Exec.lean ====
section
/-! SUPPORT. One inversion lemma per meaning: if it answers a next state, then which one, and under which
precondition. -/

namespace Sys2Proof.Machine

theorem exec_openReq (rate : BitVec 20) (ch : BitVec 3) (fmt : SampleFormat) (s : State) :
    exec (.openReq rate ch fmt) s = execOpen rate ch fmt s := rfl
theorem exec_push (samples : List Sample) (s : State) : exec (.push samples) s = execPush samples s := rfl
theorem exec_pull (n : BitVec 24) (s : State) : exec (.pull n) s = execPull n s := rfl
theorem exec_close (s : State) : exec .close s = execClose s := rfl
theorem exec_rdovf (s : State) : exec .rdovf s = execRdovf s := rfl
theorem exec_render (s : State) : exec .render s = execRender s := rfl
theorem exec_inval (s : State) : exec .inval s = execInval s := rfl
theorem exec_encode (s : State) : exec .encode s = execEncode s := rfl
theorem exec_rdrow (row : BitVec 3) (s : State) : exec (.rdrow row) s = execRdrow row s := rfl

/-- The state OPEN leaves when the device answered with failure. -/
def State.openFailedWith (s : State) (answers : List DevAnswer) (draws : Nat) : State :=
  { s with devAnswers := answers, draws := draws, responses := s.responses ++ [openFailed] }

/-- The state OPEN leaves when the device answered with obtained parameters. -/
def State.openedWith (s : State) (answers : List DevAnswer) (draws : Nat) (c : Fin 7) (f : SampleFormat) : State :=
  { s with
    devAnswers := answers, draws := draws, och := channelsOf c, ofmt := f, astate := .opened
    responses := s.responses ++ [openResponse f (channelsOf c)] }

/-- Taking the device's answer touches the model's own record of answers alone. -/
theorem State.dropAnswer_frame (s : State) : ∃ q d, s.dropAnswer = { s with devAnswers := q, draws := d } := by
  unfold State.dropAnswer; split <;> exact ⟨_, _, rfl⟩

theorem execOpen_next {s t : State} {rate : BitVec 20} {ch : BitVec 3} {fmt : SampleFormat}
    (h : execOpen rate ch fmt s = .next t) : s.astate = .idle ∧ ch ≠ 0#3 ∧
      ∃ answers draws, t = (s.request ⟨rate, ch, fmt⟩).openFailedWith answers draws ∨
        ∃ c f, t = (s.request ⟨rate, ch, fmt⟩).openedWith answers draws c f := by
  unfold execOpen at h
  split at h
  · cases h
  · split at h
    · cases h
    · rename_i hi hc
      refine ⟨by simpa using hi, hc, ?_⟩
      cases h
      obtain ⟨q, d, hd⟩ := (s.request ⟨rate, ch, fmt⟩).dropAnswer_frame
      refine ⟨q, d, ?_⟩
      rw [hd]
      cases s.nextAnswer with
      | fail => exact .inl rfl
      | ok c f => exact .inr ⟨c, f, rfl⟩

theorem execPush_next {s t : State} {samples : List Sample} (h : execPush samples s = .next t) :
    s.astate = .opened ∧ t = ((s.acquire .P).pushAll samples).release := by
  unfold execPush at h
  split at h
  · cases h
  · rename_i ho; cases h; exact ⟨by simpa using ho, rfl⟩

theorem execPull_next {s t : State} {n : BitVec 24} (h : execPull n s = .next t) :
    s.astate = .opened ∧ t = ((s.acquire .C).pullLoop (s.framesFor n) 0).release := by
  unfold execPull at h
  split at h
  · cases h
  · rename_i ho; cases h; exact ⟨by simpa using ho, rfl⟩

theorem execClose_next {s t : State} (h : execClose s = .next t) :
    s.astate = .opened ∧ t = { s with astate := .closed } := by
  unfold execClose at h
  split at h
  · cases h
  · rename_i ho; cases h; exact ⟨by simpa using ho, rfl⟩

theorem execRender_next {s t : State} (h : execRender s = .next t) :
    s.fbrdy = true ∧ t = s.paint.rebaseline.clearRefresh := by
  unfold execRender at h
  split at h
  · rename_i hb; cases h; exact ⟨hb, rfl⟩
  · cases h

theorem execEncode_next {s t : State} (h : execEncode s = .next t) :
    (s.gateOpen = true ∧ s.cfg.keysInRange ∧ t = s.encodeRows) ∨ (s.gateOpen = false ∧ t = s) := by
  unfold execEncode at h
  split at h
  · split at h
    · rename_i hg hk; cases h; exact .inl ⟨hg, hk, rfl⟩
    · cases h
  · rename_i hg; cases h; exact .inr ⟨by simpa using hg, rfl⟩

end Sys2Proof.Machine
end

