-- ==== Sys2Proof/Laws/PerInstr.lean ====
section
/-! SUPPORT. The family OpcodeField: the command word of an instruction carries its opcode in bits 31:24 (30_encoding.md
R100) and its operand fields in bits 23:0 (R101). -/

namespace Sys2Proof.Laws.OpcodeField

/-- The two parts of the command word. -/
def Statement (i : Instr) : Prop :=
  i.headWord.extractLsb' 24 8 = i.op.byte ∧ i.headWord.extractLsb' 0 24 = i.fieldBits

theorem opcode_append (op : Byte) (fields : BitVec 24) :
    (op ++ fields : Word).extractLsb' 24 8 = op ∧ (op ++ fields : Word).extractLsb' 0 24 = fields := by
  constructor <;> apply BitVec.eq_of_getLsbD_eq <;> intro k hk <;>
    rw [BitVec.getLsbD_extractLsb', BitVec.getLsbD_append] <;> simp [hk]

theorem openReq (rate : BitVec 20) (ch : BitVec 3) (fmt : SampleFormat) : Statement (.openReq rate ch fmt) :=
  opcode_append _ _

theorem push (samples : List Sample) : Statement (.push samples) := opcode_append _ _

theorem pull (byteLength : BitVec 24) : Statement (.pull byteLength) := opcode_append _ _

theorem close : Statement .close := opcode_append _ _

theorem rdovf : Statement .rdovf := opcode_append _ _

theorem render : Statement .render := opcode_append _ _

theorem inval : Statement .inval := opcode_append _ _

theorem encode : Statement .encode := opcode_append _ _

theorem rdrow (row : BitVec 3) : Statement (.rdrow row) := opcode_append _ _

end Sys2Proof.Laws.OpcodeField
end

