-- ==== Sys2Proof/Laws/Step.lean ====
section
/-! SUPPORT. Everything a step can do, said once: the outcomes of a turn on each port, RESET, abandoned commands, and
the inversion of a step that answers a next state. -/

namespace Sys2Proof.Machine

/-- Dropping an awaiting PUSH touches port P alone. -/
theorem State.dropAwaiting_frame (s : State) : ∃ p, s.dropAwaiting = { s with portP := p } := by
  unfold State.dropAwaiting
  split
  · exact ⟨_, rfl⟩
  · split <;> exact ⟨_, rfl⟩

/-- What driving RESET can do: nothing, or the block in its reset state at that level, with port P as it was or emptied
of an awaiting PUSH (70_reset_and_hazards.md R280). -/
theorem State.driveReset_cases (s : State) (level : Bool) :
    (level = false ∧ s.resetIn = false ∧ s.driveReset level = s) ∨
    ((level = true ∨ s.resetIn = true) ∧
      ∃ p, s.driveReset level = { s.resetBlock with resetIn := level, portP := p }) := by
  cases level with
  | true =>
    obtain ⟨p, h⟩ := s.dropAwaiting_frame
    exact .inr ⟨.inl rfl, p, by simp only [State.driveReset, if_true, h]; rfl⟩
  | false =>
    cases hr : s.resetIn with
    | true => exact .inr ⟨.inr rfl, s.portP, by simp only [State.driveReset, hr]; rfl⟩
    | false => exact .inl ⟨rfl, rfl, by simp [State.driveReset, hr]⟩

/-- Two states of which the second has at most other block-owned cells, ports and records, and device-owned cells that
are as before or hold nothing: what abandoning a command can do before RESET has acted. -/
structure State.Disturbed (s t : State) : Prop where
  outbuf : t.outbuf = [] ∨ t.outbuf = s.outbuf
  pixout : t.pixout = [] ∨ t.pixout = s.pixout
  rest : { t with
    ring := s.ring, startCur := s.startCur, endCur := s.endCur, ovf := s.ovf, astate := s.astate, och := s.och
    ofmt := s.ofmt, lock := s.lock, outbuf := s.outbuf, prev := s.prev, pixout := s.pixout, rf := s.rf, kr := s.kr
    portP := s.portP, portC := s.portC, responses := s.responses, requests := s.requests, mark := s.mark
    epoch := s.epoch } = s

theorem State.Disturbed.refl (s : State) : s.Disturbed s := ⟨.inr rfl, .inr rfl, rfl⟩

theorem State.Disturbed.trans {s t u : State} (h : s.Disturbed t) (h' : t.Disturbed u) : s.Disturbed u := by
  refine ⟨?_, ?_, ?_⟩
  · rcases h'.outbuf with hu | hu
    · exact .inl hu
    · rw [hu]; exact h.outbuf
  · rcases h'.pixout with hu | hu
    · exact .inl hu
    · rw [hu]; exact h.pixout
  · have hr := h.rest
    rw [← h'.rest] at hr
    exact hr

theorem State.disturbed_portP (s : State) (p : List (PortItem EnvAction)) : s.Disturbed { s with portP := p } :=
  ⟨.inr rfl, .inr rfl, rfl⟩

theorem State.disturbed_portC (s : State) (p : List (PortItem DevAction)) : s.Disturbed { s with portC := p } :=
  ⟨.inr rfl, .inr rfl, rfl⟩

theorem State.disturbed_violate (s : State) (r : Refusal) : s.Disturbed (s.violate r) := ⟨.inl rfl, .inl rfl, rfl⟩

theorem State.disturbed_dropAwaiting (s : State) : s.Disturbed s.dropAwaiting := by
  obtain ⟨p, h⟩ := s.dropAwaiting_frame
  rw [h]; exact ⟨.inr rfl, .inr rfl, rfl⟩

theorem State.disturbed_blur (s : State) (i : Instr) : s.Disturbed (s.blur i) := by
  cases i
  case render => exact ⟨.inr rfl, .inl rfl, rfl⟩
  case pull => exact ⟨.inl rfl, .inr rfl, rfl⟩
  all_goals exact .refl s

theorem State.disturbed_interrupt (s : State) (l : Lock) (i : Instr) : s.Disturbed (s.interrupt l i) := by
  have ha : s.Disturbed (if takesLock i then s.acquire l else s) := by
    split
    · exact ⟨.inr rfl, .inr rfl, rfl⟩
    · exact .refl s
  unfold State.interrupt
  simp only
  split
  · exact ha.trans (State.disturbed_blur _ i)
  · exact ha.trans (State.disturbed_blur _ i)
  · exact State.disturbed_violate s _

/-- What a legal command under way leaves. -/
theorem State.interrupt_of_next {s t : State} {l : Lock} {i : Instr} (h : exec i s = .next t) :
    s.interrupt l i = State.blur (if takesLock i then s.acquire l else s) i := by
  rw [State.interrupt, h]

/-- Everything a turn of agent P comes to. -/
theorem State.fetchP_cases (s : State) :
    s.fetchP = .quiet s ∨
    (∃ a rest, s.portP = .act a :: rest ∧ s.fetchP = .ofAction (State.envAct { s with portP := rest } a)) ∨
    (∃ r, s.mark = some r ∧ s.fetchP = .refused r) ∨
    (∃ item rest why, s.mark = none ∧ s.resetIn = false ∧ s.portP = item :: rest ∧ decode .P s.portP = .error why ∧
      s.fetchP = .violation (s.rejection why) { s with portP := rest }) ∨
    (∃ i rest, s.mark = none ∧ s.resetIn = false ∧ decode .P s.portP = .ok (i, rest) ∧ s.mustWait i = false ∧
      s.fetchP = .command i { s with portP := rest }) := by
  unfold State.fetchP
  split
  · exact .inl rfl
  · exact .inr (.inl ⟨_, _, ‹_›, rfl⟩)
  · rename_i item rest _ hp
    split
    · exact .inl rfl
    · rename_i hr
      have hr : s.resetIn = false := by simpa using hr
      split
      · exact .inr (.inr (.inl ⟨_, ‹_›, rfl⟩))
      · rename_i hm
        split
        · exact .inl rfl
        · exact .inr (.inr (.inr (.inl ⟨item, rest, _, hm, hr, hp, by rw [hp]; assumption, rfl⟩)))
        · split
          · exact .inl rfl
          · rename_i hw
            exact .inr (.inr (.inr (.inr ⟨_, _, hm, hr, by rw [hp]; assumption, by simpa using hw, rfl⟩)))

/-- Everything a turn of agent C comes to. -/
theorem State.fetchC_cases (s : State) :
    s.fetchC = .quiet s ∨
    (∃ a rest, s.portC = .act a :: rest ∧ s.fetchC = .ofAction (State.devAct { s with portC := rest } a)) ∨
    (∃ r, s.mark = some r ∧ s.fetchC = .refused r) ∨
    (∃ item rest why, s.mark = none ∧ s.resetIn = false ∧ s.portC = item :: rest ∧ decode .C s.portC = .error why ∧
      s.fetchC = .violation (s.rejection why) { s with portC := rest }) ∨
    (∃ i rest, s.mark = none ∧ s.resetIn = false ∧ decode .C s.portC = .ok (i, rest) ∧ s.mustWait i = false ∧
      s.fetchC = .command i { s with portC := rest }) := by
  unfold State.fetchC
  split
  · exact .inl rfl
  · exact .inr (.inl ⟨_, _, ‹_›, rfl⟩)
  · rename_i item rest _ hp
    split
    · exact .inl rfl
    · rename_i hr
      have hr : s.resetIn = false := by simpa using hr
      split
      · exact .inr (.inr (.inl ⟨_, ‹_›, rfl⟩))
      · rename_i hm
        split
        · exact .inl rfl
        · exact .inr (.inr (.inr (.inl ⟨item, rest, _, hm, hr, hp, by rw [hp]; assumption, rfl⟩)))
        · split
          · exact .inl rfl
          · rename_i hw
            exact .inr (.inr (.inr (.inr ⟨_, _, hm, hr, by rw [hp]; assumption, by simpa using hw, rfl⟩)))

theorem State.disturbed_cutP (s : State) : s.Disturbed s.cutP := by
  unfold State.cutP
  rcases s.fetchP_cases with h | ⟨a, rest, _, h⟩ | ⟨r, _, h⟩ | ⟨_, rest, _, _, _, _, _, h⟩ | ⟨i, rest, _, _, _, _, h⟩
  · rw [h]; exact s.disturbed_dropAwaiting
  · rw [h]; cases State.envAct { s with portP := rest } a <;> exact s.disturbed_dropAwaiting
  · rw [h]; exact s.disturbed_dropAwaiting
  · rw [h]; exact (s.disturbed_portP rest).trans (State.disturbed_violate _ _)
  · rw [h]; exact (s.disturbed_portP rest).trans (State.disturbed_interrupt _ _ i)

theorem State.disturbed_cutC (s : State) : s.Disturbed s.cutC := by
  unfold State.cutC
  rcases s.fetchC_cases with h | ⟨a, rest, _, h⟩ | ⟨r, _, h⟩ | ⟨_, rest, _, _, _, _, _, h⟩ | ⟨i, rest, _, _, _, _, h⟩
  · rw [h]; exact .refl s
  · rw [h]; cases State.devAct { s with portC := rest } a <;> exact .refl s
  · rw [h]; exact .refl s
  · rw [h]; exact (s.disturbed_portC rest).trans (State.disturbed_violate _ _)
  · rw [h]; exact (s.disturbed_portC rest).trans (State.disturbed_interrupt _ _ i)

/-- Whatever RESET abandons, the block is in its reset state; the device's cells stay or lose their values, and the ports
and records are open (70_reset_and_hazards.md R280, R281). -/
theorem State.cut_frame (s : State) (onP onC : Bool) : ∃ o p pp pc rs rq e,
    (o = [] ∨ o = s.outbuf) ∧ (p = [] ∨ p = s.pixout) ∧ s.cut onP onC = { s.resetBlock with
      resetIn := true, outbuf := o, pixout := p, portP := pp, portC := pc, responses := rs, requests := rq
      epoch := e } := by
  have hp : s.Disturbed (if onP then s.cutP else s.dropAwaiting) := by
    split
    · exact s.disturbed_cutP
    · exact s.disturbed_dropAwaiting
  unfold State.cut
  simp only
  generalize (if onP then s.cutP else s.dropAwaiting) = t at *
  have hc : s.Disturbed (if onC then t.cutC else t) := by
    split
    · exact hp.trans t.disturbed_cutC
    · exact hp
  generalize (if onC then t.cutC else t) = u at *
  refine ⟨u.outbuf, u.pixout, u.portP, u.portC, u.responses, u.requests, u.epoch + 1, hc.outbuf, hc.pixout, ?_⟩
  conv_rhs => rw [← hc.rest]
  rfl

/-- A step that answers a next state is a quiet turn, a command that completed, or a violation. -/
theorem step_next {s t : State} (h : step s = .next t) :
    s.fetch = .quiet t ∨
    (∃ i u, s.fetch = .command i u ∧ (exec i u = .next t ∨ ∃ r, exec i u = .refused r ∧ t = u.violate r)) ∨
    ∃ r u, s.fetch = .violation r u ∧ t = u.violate r := by
  unfold step at h
  split at h
  · rename_i hf; cases h; exact .inl hf
  · rename_i i u hf
    refine .inr (.inl ⟨i, u, hf, ?_⟩)
    cases he : exec i u with
    | next v => rw [he] at h; cases h; exact .inl rfl
    | fault r => rw [he] at h; cases h
    | refused r => rw [he] at h; cases h; exact .inr ⟨r, rfl, rfl⟩
  · rename_i r u hf; cases h; exact .inr (.inr ⟨r, u, hf, rfl⟩)
  · cases h
  · cases h

end Sys2Proof.Machine
end

