-- ==== Sys2Proof/Tests/Slice0.lean ====
section
/-! SUPPORT. Tests of single words and single steps, expected results from 95_test_vectors.md, and the witnesses: for
every obligation with hypotheses a concrete state and operands that meet them together. -/

namespace Sys2Proof.Tests

open Sys2Proof Sys2Proof.Machine

/-! Helpers. -/

/-- The next state, if the outcome is one. -/
def next? (o : Host.Outcome State Fault Refusal) : Option State :=
  match o with
  | .next t => some t
  | .fault _ => none
  | .refused _ => none

/-- The refusal, if the outcome is one. -/
def refusal? (o : Host.Outcome State Fault Refusal) : Option Refusal :=
  match o with
  | .next _ => none
  | .fault _ => none
  | .refused r => some r

/-- The decoded head, if the word is accepted. -/
def head? (p : Port) (w : Word) : Option Head := (decodeWord p w).toOption

/-- The reason a word is rejected. -/
def reject? (p : Port) (w : Word) : Option Reject :=
  match decodeWord p w with
  | .ok _ => none
  | .error e => some e

/-- A space whose first cells are these. -/
def cells {α : Type} (vs : List α) : Memory α := vs.zipIdx.map fun p => (p.2, p.1)

/-- A_OPEN with obtained format (1 channel, unsigned16), `N = 4`, the listed slots and cursors. -/
def audio (ring : Memory Sample) (start fin : Nat) : State :=
  { State.reset with
    astate := .opened, och := 1#3, ofmt := .unsigned16, ring := ring, startCur := start, endCur := fin }

/-- Geometry G1, `RF = 0`: twelve bytes of CUR and of PREV. -/
def screen (cur prev : List Byte) : State := { State.reset with rf := false, cur := cells cur, prev := cells prev }

/-- Key map KM1 with exactly these keys pressed. -/
def keys (down : List Nat) : State :=
  { State.reset with keystate := cells ((List.range 48).map fun k => decide (k ∈ down)) }

/-- What the 16 pixels of geometry G1 hold, as pixel codes. -/
def pixels (s : State) : List (Option Nat) := (List.range 16).map fun p => (Memory.get? s.pixout p).map Pixel.code

/-- A ring of N = 4 at capacity. -/
def full : State := audio [(0, 0x1122#16), (1, 0x3344#16), (2, 0x5566#16)] 0 3

/-- A port-P turn with these items on the port. -/
def onP (s : State) (items : List (PortItem EnvAction)) : State := { s with turns := [.P], portP := items }

/-- A port-C turn with these items on the port. -/
def onC (s : State) (items : List (PortItem DevAction)) : State := { s with turns := [.C], portC := items }

/-! WellFormed refuses an ill-formed term for each of its checks, and accepts the neighbours. -/

theorem test_wf_refuses_open_of_zero_channels : (Instr.openReq 44100#20 0#3 .unsigned16).wf = false := by decide

theorem test_wf_accepts_open_of_seven_channels : (Instr.openReq 0#20 7#3 .unsigned8).wf = true := by decide

theorem test_wf_refuses_push_longer_than_its_count_field : (Instr.push (List.replicate (2 ^ 24) 0#16)).wf = false := by
  simp only [Instr.wf, List.length_replicate]; decide

theorem test_wf_accepts_push_of_nothing : (Instr.push []).wf = true := by decide

/-! Decoding: words written out bit by bit from R101 and R102 (V-E2, V-E3, V-E6, V-E7, V-E11 to V-E19). -/

theorem test_decode_open : head? .P 0b00000001001000000101011000100010#32 =
    some (.whole (.openReq 22050#20 2#3 .unsigned8)) := by decide

theorem test_decode_open_rate_zero : head? .P 0b00000001111100000000000000000000#32 =
    some (.whole (.openReq 0#20 7#3 .unsigned16)) := by decide

theorem test_decode_push_of_nothing : head? .P 0b00000010000000000000000000000000#32 = some (.push 0#24) := by decide

theorem test_decode_push_largest_count : head? .P 0b00000010111111111111111111111111#32 =
    some (.push 16777215#24) := by decide

theorem test_decode_pull : head? .C 0b00000011000000000000000000000101#32 = some (.whole (.pull 5#24)) := by decide

theorem test_decode_close : head? .P 0b00000100000000000000000000000000#32 = some (.whole .close) := by decide

theorem test_decode_rdovf : head? .P 0b00000101000000000000000000000000#32 = some (.whole .rdovf) := by decide

theorem test_decode_render : head? .P 0b00010000000000000000000000000000#32 = some (.whole .render) := by decide

theorem test_decode_inval : head? .P 0b00010001000000000000000000000000#32 = some (.whole .inval) := by decide

theorem test_decode_encode : head? .P 0b00100000000000000000000000000000#32 = some (.whole .encode) := by decide

theorem test_decode_rdrow : head? .P 0b00100001000000000000000000000101#32 = some (.whole (.rdrow 5#3)) := by decide

/-- V-E4: `ch == 0`. -/
theorem test_decode_rejects_zero_channels : reject? .P 0x01800001#32 = some .zeroChannels := by decide

/-- V-E9 and V-E10: a command on the other port. -/
theorem test_decode_rejects_the_wrong_port :
    reject? .P 0x03000006#32 = some .wrongPort ∧ reject? .C 0x02000001#32 = some .wrongPort := by decide

/-- V-E12 and V-E19: the lowest reserved bit of formats Z and R. -/
theorem test_decode_rejects_reserved_bits :
    reject? .P 0x04000001#32 = some .reservedBits ∧ reject? .P 0x21000008#32 = some .reservedBits := by decide

/-- V-E20 and V-E21: unassigned opcodes. -/
theorem test_decode_rejects_unassigned_opcodes :
    (reject? .P 0x00000000#32, reject? .P 0x06000000#32, reject? .P 0x12000000#32, reject? .P 0x22000000#32,
      reject? .P 0xFF000000#32) =
    (some .reservedOpcode, some .reservedOpcode, some .reservedOpcode, some .reservedOpcode,
      some .reservedOpcode) := by decide

/-- V-E5 with its beats: sample 0 first, the rest of the stream is what follows the last beat. -/
theorem test_decode_takes_the_beats :
    decode (Act := EnvAction) .P [.word 0x02000002#32, .beat 0x1122#16, .beat 0x3344#16, .word 0x04000000#32] =
      .ok (.push [0x1122#16, 0x3344#16], [.word 0x04000000#32]) := rfl

theorem test_encode_push :
    encode (Act := EnvAction) (.push [0xBEEF#16]) = [.word 0x02000001#32, .beat 0xBEEF#16] := by decide

theorem test_table_word_of_push_counts_beats_above_bit_31 :
    decodeTableWord 64 0x3344112202000002 = some (.push [0x1122#16, 0x3344#16]) := by decide

/-! One step each. -/

/-- V-A17b: stereo 8-bit obtained where mono 16-bit was asked for; V-E24. -/
theorem test_open_takes_what_the_device_gives :
    (next? (exec (.openReq 44100#20 1#3 .unsigned16) { State.reset with devAnswers := [.ok 1 .unsigned8] })).map
      (fun t => (t.astate, t.och, t.ofmt, t.responses, t.requests)) =
    some (.opened, 2#3, .unsigned8, [0x00200000#32], [⟨44100#20, 1#3, .unsigned16⟩]) := by decide

/-- V-A17a. -/
theorem test_open_failure_stays_idle :
    (next? (exec (.openReq 44100#20 1#3 .unsigned16) { State.reset with devAnswers := [.fail] })).map
      (fun t => (t.astate, t.och, t.responses)) = some (.idle, 0#3, [0x80000000#32]) := by decide

/-- V-A8: four collisions in one burst. -/
theorem test_push_drops_one_slot_per_collision :
    (next? (exec (.push [0xA0#16, 0xA1#16, 0xA2#16, 0xA3#16, 0xA4#16]) (audio [(1, 0x10#16), (2, 0x11#16)] 1 3))).map
      (fun t => (t.ring, t.startCur, t.endCur, t.ovf)) =
    some ([(0, 0xA1#16), (1, 0xA2#16), (2, 0xA3#16), (3, 0xA4#16)], 1, 0, 4#32) := by decide

/-- V-A9 and V-A3: the counter wraps. -/
theorem test_push_wraps_the_overflow_counter :
    (next? (exec (.push [7#16]) { audio [(1, 1#16), (2, 2#16), (3, 3#16)] 1 0 with ovf := 0xFFFFFFFF#32 })).map
      (fun t => (t.startCur, t.endCur, t.ovf)) = some (2, 1, 0#32) := by decide

/-- V-A15: the read cursor wraps; low byte then high byte. -/
theorem test_pull_wraps_and_orders_bytes :
    (next? (exec (.pull 4#24) (audio [(0, 0xFF00#16), (3, 0x00FF#16)] 3 1))).map (fun t => (t.outbuf, t.startCur)) =
    some ([(0, 0xFF#8), (1, 0x00#8), (2, 0x00#8), (3, 0xFF#8)], 1) := by decide

/-- V-A16c: stereo 8-bit, the fifth byte keeps what the device put there. -/
theorem test_pull_duplicates_channels_and_keeps_the_tail :
    (next? (exec (.pull 5#24) { audio [(0, 0x1234#16), (1, 0xABCD#16)] 0 2 with
      och := 2#3, ofmt := .unsigned8, outbuf := [(4, 0xEE#8)] })).map (fun t => t.outbuf) =
    some [(0, 0x12#8), (1, 0x12#8), (2, 0xAB#8), (3, 0xAB#8), (4, 0xEE#8)] := by decide

/-- V-A17f and V-A17g. -/
theorem test_close_once :
    (next? (exec .close (audio [(0, 1#16)] 0 1))).map (fun t => (t.astate, t.endCur)) = some (.closed, 1) ∧
    refusal? (exec .close { State.reset with astate := .closed }) = some .closeNotOpen := by decide

/-- V-A17h. -/
theorem test_rdovf_responds_without_clearing :
    (next? (exec .rdovf { State.reset with ovf := 7#32 })).map (fun t => (t.responses, t.ovf)) =
      some ([7#32], 7#32) := by decide

/-- V-R3: an inverted changed cell, the unchanged cell skipped. -/
theorem test_render_inverts_the_changed_cell_only :
    (next? (exec .render { screen [0, 0, 0, 0, 0, 0, 0xA5, 0, 0, 0, 0, 0] [0, 0, 0, 0, 0, 0, 0, 0, 0, 0, 0, 0] with
      inv := true })).map (fun t => (pixels t, Memory.get? t.prev 6, t.rf)) =
    some ([none, none, none, none, none, none, none, none,
      some 0, some 1, some 0, some 1, some 1, some 0, some 1, some 0], some 0xA5#8, false) := by decide

/-- V-R4: border changes draw nothing and are copied. -/
theorem test_render_copies_the_border :
    (next? (exec .render (screen [1, 0, 0, 0, 0xFF, 0, 0, 0x80, 0, 0x55, 0, 0] [0, 0, 0, 0, 0, 0, 0, 0, 0, 0, 0, 0]))).map
      (fun t => (t.pixout, t.prev)) =
    some ([], cells [1#8, 0#8, 0#8, 0#8, 0xFF#8, 0#8, 0#8, 0x80#8, 0#8, 0x55#8, 0#8, 0#8]) := by decide

/-- V-R12: INVAL does not need FBRDY. -/
theorem test_inval_sets_the_flag :
    (next? (exec .inval { State.reset with rf := false, fbrdy := false })).map (fun t => t.rf) = some true := by decide

/-- V-K7 and V-K3b: weights 1 and 16 of row 0, with the set of slot (0, 0). -/
theorem test_encode_weights :
    (next? (exec .encode (keys [0, 41, 4]))).map (fun t => t.kr) =
      some ⟨0xEE#8, 0xFF#8, 0xFF#8, 0xFF#8, 0xFF#8, 0xFF#8, 0xFF#8, 0xFF#8⟩ := by decide

/-- V-K8: paused, the rows are frozen. -/
theorem test_encode_paused_keeps_the_rows :
    (next? (exec .encode { keys [39] with paused := true, kr := { Rows.reset with r0 := 0xFE#8, r1 := 0xFB#8 } })).map
      (fun t => t.kr) = some { Rows.reset with r0 := 0xFE#8, r1 := 0xFB#8 } := by decide

/-- V-K12: row 1, zero-extended, and the row stays. -/
theorem test_rdrow_reads_its_row :
    (next? (exec (.rdrow 1#3) { State.reset with kr := { Rows.reset with r1 := 0xFB#8 } })).map
      (fun t => (t.responses, t.kr.r1)) = some ([0x000000FB#32], 0xFB#8) := by decide

/-- V-A17d as a whole step: the first command after reset is fetched, decoded and refused, and the mark stands (R245). -/
theorem test_step_marks_push_after_reset :
    (next? (step (State.reset.withFetchWord 64 0x102000001))).map (fun t => t.mark) = some (some .ringNotOpen) := by
  decide

/-- V-K10 as a whole step. -/
theorem test_step_reads_a_row_after_reset :
    (next? (step (State.reset.withFetchWord 32 0x21000007))).map (fun t => (t.responses, t.portP, t.turns)) =
      some ([0x000000FF#32], [], []) := by decide

/-- R140 and R247: OPEN with `ch == 0` in A_OPEN fails the check on A_IDLE first. -/
theorem test_step_open_of_zero_channels_when_open :
    (next? (step (onP (audio [] 0 0) [.word 0x01800001#32]))).map (fun t => (t.mark, t.portP)) =
      some (some .openNotIdle, []) := by decide

/-- R245: a command met while the mark stands has no meaning; RESET clears the mark. -/
theorem test_step_under_the_mark :
    refusal? (step { onP State.reset [.word 0x11000000#32] with mark := some .closeNotOpen }) = some .closeNotOpen ∧
    (next? (step { State.reset with mark := some .closeNotOpen, turns := [.rst true] })).map (fun t => t.mark) =
      some none := by decide

/-- R280: RESET rises during a PUSH of two samples, and during one that awaits its second beat. -/
theorem test_step_abandons_push :
    (next? (step { onP (audio [] 0 0) [.word 0x02000002#32, .beat 5#16, .beat 6#16, .word 0x05000000#32] with
      turns := [.rstDuring true false] })).map (fun t => (t.portP, t.astate, t.endCur, t.ring)) =
      some ([.word 0x05000000#32], .idle, 0, []) ∧
    (next? (step { onP (audio [] 0 0) [.word 0x02000002#32, .beat 5#16] with turns := [.rst true] })).map
      (fun t => (t.portP, t.astate, t.resetIn)) = some ([], .idle, true) := by decide

/-- R280: RESET rises during a RENDER and a PULL together. -/
theorem test_step_abandons_on_both_ports :
    (next? (step { full with
      turns := [.rstDuring true true], portP := [.word 0x10000000#32], portC := [.word 0x03000002#32]
      outbuf := [(0, 0xEE#8)], pixout := [(3, ⟨7⟩)] })).map
      (fun t => (t.portP.length, t.portC.length, t.outbuf.length, t.pixout.length)) = some (0, 0, 0, 0) := by decide

/-- R280: RESET rises during a PULL while a PUSH awaits its second beat. -/
theorem test_step_abandons_awaiting_push_beside_pull :
    (next? (step { full with
      turns := [.rstDuring false true], portP := [.word 0x02000002#32, .beat 5#16], portC := [.word 0x03000002#32]
      pixout := [(3, ⟨7⟩)] })).map
      (fun t => (t.portP.length, t.portC.length, t.pixout)) = some (0, 0, [(3, ⟨7⟩)]) := by decide

/-- R6: `ceil(log2(N))` for N = 2, 4 and 5. -/
theorem test_cursor_width :
    ({ Config.p5 with n := 2 }.wcur, Config.p5.wcur, { Config.p5 with n := 5 }.wcur) = (1, 2, 3) := by decide

/-! Witnesses: each meets all hypotheses of the obligation it is named after, clause by clause. -/

/-- A frame with one changed visible cell, and one with none. -/
def changed : State := screen [0, 0, 0, 0, 0, 0, 0xA5, 0, 0, 0, 0, 0] [0, 0, 0, 0, 0, 0, 0, 0, 0, 0, 0, 0]

def unchanged : State := screen [0, 0, 0, 0, 0, 1, 2, 0, 0, 0, 0, 0] [0, 0, 0, 0, 0, 1, 2, 0, 0, 0, 0, 0]

theorem witness_DecodeOfEncodeIsTheCommand :
    (Instr.openReq 44100#20 1#3 .unsigned16).wf = true ∧ (Instr.push [1#16, 2#16]).wf = true ∧
    (Instr.pull 6#24).wf = true ∧ (Instr.rdrow 7#3).wf = true := by decide

theorem witness_AcceptedStreamIsAnEncoding :
    decode (Act := DevAction) .C [.word 0x03000006#32, .word 0x03000002#32] =
      .ok (.pull 6#24, [.word 0x03000002#32]) := rfl

theorem witness_StepRunsDecodedCommand :
    (∃ (s : State) (rest : List (PortItem EnvAction)), s.turns = [.P] ∧ s.resetIn = false ∧ s.mark = none ∧
      s.lock = .free ∧ decode .P s.portP = .ok (.push [5#16], rest)) ∧
    (∃ (s : State) (rest : List (PortItem DevAction)), s.turns = [.C] ∧ s.resetIn = false ∧ s.mark = none ∧
      s.lock = .free ∧ decode .C s.portC = .ok (.pull 2#24, rest)) :=
  ⟨⟨onP full [.word 0x02000001#32, .beat 5#16], [], rfl, rfl, rfl, rfl, rfl⟩,
    ⟨onC full [.word 0x03000002#32], [], rfl, rfl, rfl, rfl, rfl⟩⟩

theorem witness_PlacedWordIsTheNextCommand :
    decodeTableWord 32 0x20000000 = some .encode ∧
    decodeTableWord 32 0x03000004 = some (.pull 4#24) := by decide

theorem witness_AssertedResetAcceptsNoCommand :
    (∃ (s : State) (w : Word), s.turns = [.P] ∧ s.resetIn = true ∧ s.portP = [.word w]) ∧
    (∃ (s : State) (w : Word), s.turns = [.C] ∧ s.resetIn = true ∧ s.portC = [.word w]) :=
  ⟨⟨{ onP full [.word 0x04000000#32] with resetIn := true }, _, rfl, rfl, rfl⟩,
    ⟨{ onC full [.word 0x03000004#32] with resetIn := true }, _, rfl, rfl, rfl⟩⟩

theorem witness_RequestWaitsForHeldLock :
    (∃ s : State, s.turns = [.P] ∧ s.mark = none ∧ s.lock ≠ .free ∧ decode .P s.portP = .ok (.push [5#16], [])) ∧
    (∃ s : State, s.turns = [.P] ∧ s.mark = none ∧ s.lock ≠ .free ∧ decode .P s.portP = .ok (.rdovf, [])) ∧
    (∃ s : State, s.turns = [.C] ∧ s.mark = none ∧ s.lock ≠ .free ∧ decode .C s.portC = .ok (.pull 2#24, [])) :=
  ⟨⟨{ onP full [.word 0x02000001#32, .beat 5#16] with lock := .C }, rfl, rfl, by decide, rfl⟩,
    ⟨{ onP full [.word 0x05000000#32] with lock := .C }, rfl, rfl, by decide, rfl⟩,
    ⟨{ onC full [.word 0x03000002#32] with lock := .P }, rfl, rfl, by decide, rfl⟩⟩

/-- A reserved bit; `ch == 0` in A_IDLE and outside it; a command on the other port. -/
theorem witness_ReservedWordIsRefused :
    (∃ (s : State) (w : Word), s.turns = [.P] ∧ s.resetIn = false ∧ s.mark = none ∧ s.portP = [.word w] ∧
      decodeWord .P w = .error .reservedBits) ∧
    (∃ (s : State) (w : Word), s.turns = [.P] ∧ s.resetIn = false ∧ s.mark = none ∧ s.portP = [.word w] ∧
      decodeWord .P w = .error .zeroChannels ∧ s.astate = .idle) ∧
    (∃ (s : State) (w : Word), s.turns = [.P] ∧ s.resetIn = false ∧ s.mark = none ∧ s.portP = [.word w] ∧
      decodeWord .P w = .error .zeroChannels ∧ s.astate ≠ .idle) ∧
    (∃ (s : State) (w : Word), s.turns = [.C] ∧ s.resetIn = false ∧ s.mark = none ∧ s.portC = [.word w] ∧
      decodeWord .C w = .error .wrongPort) :=
  ⟨⟨onP full [.word 0x21000008#32], _, rfl, rfl, rfl, rfl, rfl⟩,
    ⟨onP State.reset [.word 0x01800001#32], _, rfl, rfl, rfl, rfl, rfl, rfl⟩,
    ⟨onP full [.word 0x01800001#32], _, rfl, rfl, rfl, rfl, rfl, by decide⟩,
    ⟨onC full [.word 0x02000001#32], _, rfl, rfl, rfl, rfl, rfl⟩⟩

/-- The last index of CUR, of CPL, of KEYSTATE, of PIXOUT and of OUTBUF, and each level input. -/
theorem witness_EnvironmentChangeIsInPlaceForNextCommand :
    (∃ s : State, s.turns = [.P] ∧ s.portP = [.act (.cur 11 0xFF#8)] ∧ 11 < s.cfg.stride * s.cfg.fullH) ∧
    (∃ s : State, s.turns = [.P] ∧ s.portP = [.act (.cpl 95 7#8)] ∧ 95 < s.cfg.fullW * s.cfg.fullH) ∧
    (∃ s : State, s.turns = [.P] ∧ s.portP = [.act (.key 47 true)] ∧ 47 < s.cfg.maxKeycodes) ∧
    (∃ s : State, s.turns = [.P] ∧ s.portP = [.act (.pix 15 ⟨9⟩)] ∧ 15 < s.cfg.visW * s.cfg.visH) ∧
    (∀ name, ∃ s : State, s.turns = [.P] ∧ s.portP = [.act (.input name true)]) ∧
    (∃ s : State, s.turns = [.C] ∧ s.portC = [.act (.out 16777214 0x80#8)] ∧ 16777214 < 2 ^ 24 - 1) :=
  ⟨⟨onP full [.act (.cur 11 0xFF#8)], rfl, rfl, by decide⟩, ⟨onP full [.act (.cpl 95 7#8)], rfl, rfl, by decide⟩,
    ⟨onP full [.act (.key 47 true)], rfl, rfl, by decide⟩, ⟨onP full [.act (.pix 15 ⟨9⟩)], rfl, rfl, by decide⟩,
    fun name => ⟨onP full [.act (.input name true)], rfl, rfl⟩,
    ⟨onC full [.act (.out 16777214 0x80#8)], rfl, rfl, by decide⟩⟩

theorem witness_ResetEventRestoresTheBlock :
    (∃ s : State, s.turns = [.rst true] ∧ s.resetIn = false ∧ decode .P s.portP = .error .incomplete ∧ s.portP ≠ []) ∧
    (∃ s : State, s.turns = [.rst true] ∧ s.resetIn = false ∧ decode .P s.portP = .ok (.close, [])) ∧
    (∃ s : State, s.turns = [.rst false] ∧ s.resetIn = true) :=
  ⟨⟨{ onP full [.word 0x02000001#32] with turns := [.rst true] }, rfl, rfl, rfl, by decide⟩,
    ⟨{ onP full [.word 0x04000000#32] with turns := [.rst true] }, rfl, rfl, rfl⟩,
    ⟨{ full with turns := [.rst false], resetIn := true }, rfl, rfl⟩⟩

/-- A full ring in A_OPEN about to take one sample more. -/
theorem witness_StepKeepsTheInvariant :
    ∃ s t : State, s.Inv ∧ step s = .next t ∧ s.ringSize = s.cfg.n - 1 :=
  ⟨onP full [.word 0x02000001#32, .beat 5#16], _,
    ⟨by decide, ⟨by decide, by decide, by decide, by decide, by decide, by decide, by decide⟩,
      fun _ => ⟨by decide, by decide, by decide, rfl, by decide, by decide⟩, (fun _ h => by cases h),
      (fun _ r => by revert r; decide)⟩,
    rfl, by decide⟩

theorem witness_StepKeepsTheParameters : ∃ t, step (onP full [.word 0x04000000#32]) = .next t := ⟨_, rfl⟩

/-- CLOSE meets the premises of every clause but the one on the audio state, INVAL that one. -/
theorem witness_EachCellIsWrittenOnlyByItsCommands :
    (∃ t, exec .close full = .next t) ∧ (∃ t, exec .inval full = .next t) := ⟨⟨_, rfl⟩, ⟨_, rfl⟩⟩

theorem witness_IllegalAudioCommandIsRefusedByName :
    (∃ s : State, s.astate ≠ .idle ∧ s.astate ≠ .opened) ∧ (∃ s : State, s.astate ≠ .idle ∧ s.astate = .opened) ∧
    (∃ s : State, s.astate ≠ .opened ∧ s.astate = .idle) :=
  ⟨⟨{ full with astate := .closed }, by decide, by decide⟩, ⟨full, by decide, rfl⟩, ⟨State.reset, by decide, rfl⟩⟩

/-- The least code out of range. -/
theorem witness_KeyCodeOutOfRangeIsRefused :
    ∃ s : State, s.active = true ∧ s.paused = false ∧
      ∃ row ∈ s.cfg.keymap, ∃ slot ∈ row, ∃ k ∈ slot, s.cfg.maxKeycodes ≤ k :=
  ⟨{ keys [0] with cfg := { Config.p5 with maxKeycodes := 41 } }, rfl, rfl, by decide⟩

/-- Two states that differ in a ring slot that is not resident, in PREV under a full refresh, and in the obtained
format outside A_OPEN. -/
theorem witness_UnspecifiedCellsInfluenceNothing :
    ∃ s s' t : State, s.cfg.wf ∧ s.startCur < s.cfg.n ∧ s.endCur < s.cfg.n ∧ s.Indistinct s' ∧ s.ring ≠ s'.ring ∧
      s.prev ≠ s'.prev ∧ s.och ≠ s'.och ∧ exec .render s = .next t :=
  ⟨{ full with astate := .closed }, { full with
      astate := .closed, ring := full.ring ++ [(3, 9#16)], prev := [(5, 1#8)], och := 2#3 }, _, by decide, by decide, by decide,
    ⟨rfl, by decide, (by intro h; cases h), (by intro h; cases h)⟩, by decide, by decide, by decide, rfl⟩

theorem witness_PullCommutesWithTheOtherUnits :
    ∃ s t u : State, exec (.pull 4#24) s = .next t ∧ exec .render t = .next u := ⟨full, _, _, rfl, rfl⟩

theorem witness_PauseAffectsEncodeAlone :
    (∃ s : State, s.active = false ∧ s.paused = false) ∧ (∃ s : State, s.active = true ∧ s.paused = true) ∧
    (∃ s t : State, exec (.pull 4#24) s = .next t ∧ s.paused = true) :=
  ⟨⟨{ full with active := false }, rfl, rfl⟩, ⟨{ full with paused := true }, rfl, rfl⟩,
    ⟨{ full with paused := true }, _, rfl, rfl⟩⟩

/-- A failure, an answer with the most channels, and no answer listed. -/
theorem witness_OpenTakesTheDevicesAnswer :
    (∃ s : State, s.astate = .idle ∧ (1#3 : BitVec 3) ≠ 0#3 ∧ s.devAnswers = [.fail]) ∧
    (∃ s : State, s.astate = .idle ∧ (7#3 : BitVec 3) ≠ 0#3 ∧ s.devAnswers = [.ok 6 .unsigned16]) ∧
    (∃ s : State, s.astate = .idle ∧ (1#3 : BitVec 3) ≠ 0#3 ∧ s.devAnswers = []) :=
  ⟨⟨{ State.reset with devAnswers := [.fail] }, rfl, by decide, rfl⟩,
    ⟨{ State.reset with devAnswers := [.ok 6 .unsigned16] }, rfl, by decide, rfl⟩, ⟨State.reset, rfl, by decide, rfl⟩⟩

theorem witness_OpenRequestInfluencesNothing :
    (7#3 : BitVec 3) ≠ 0#3 ∧ ∃ t, exec (.openReq 44100#20 1#3 .unsigned16) State.reset = .next t :=
  ⟨by decide, _, rfl⟩

/-- With a collision and without one. -/
theorem witness_PushOfOneSample :
    (∃ s : State, s.astate = .opened ∧ (s.endCur + 1) % s.cfg.n = s.startCur) ∧
    (∃ s : State, s.astate = .opened ∧ (s.endCur + 1) % s.cfg.n ≠ s.startCur) :=
  ⟨⟨full, rfl, by decide⟩, ⟨audio [(2, 1#16)] 2 3, rfl, by decide⟩⟩

/-- At capacity, and one sample below it. -/
theorem witness_PushNeverOverwritesAResidentSample :
    (∃ s : State, s.startCur < s.cfg.n ∧ s.endCur < s.cfg.n ∧ s.astate = .opened ∧ s.ringSize = s.cfg.n - 1) ∧
    (∃ s : State, s.startCur < s.cfg.n ∧ s.endCur < s.cfg.n ∧ s.astate = .opened ∧ s.ringSize + 1 = s.cfg.n - 1) :=
  ⟨⟨full, by decide, by decide, rfl, by decide⟩,
    ⟨audio [(3, 1#16), (0, 2#16)] 3 1, by decide, by decide, rfl, by decide⟩⟩

theorem witness_BurstIsItsSamplesOneByOne :
    (∃ t, exec (.push [1#16, 2#16]) full = .next t) ∧
    ∃ u t, exec (.push [1#16]) full = .next u ∧ exec (.push [2#16]) u = .next t := ⟨⟨_, rfl⟩, _, _, rfl, rfl⟩

/-- A refused PUSH; the empty ring and the full one. -/
theorem witness_PushOfABurst :
    (∃ s : State, s.astate ≠ .opened) ∧
    (∃ s : State, s.startCur < s.cfg.n ∧ s.endCur < s.cfg.n ∧ s.astate = .opened ∧ s.ringSize = 0) ∧
    (∃ s : State, s.startCur < s.cfg.n ∧ s.endCur < s.cfg.n ∧ s.astate = .opened ∧ s.ringSize = s.cfg.n - 1) :=
  ⟨⟨State.reset, by decide⟩, ⟨audio [] 3 3, by decide, by decide, rfl, by decide⟩,
    ⟨full, by decide, by decide, rfl, by decide⟩⟩

theorem witness_OverfilledRingKeepsTheMostRecent :
    ∃ s : State, s.startCur < s.cfg.n ∧ s.endCur = s.startCur ∧ s.astate = .opened ∧
      [1#16, 2#16, 3#16, 4#16, 5#16, 6#16].length = s.cfg.n - 1 + 3 := ⟨audio [] 3 3, by decide, rfl, rfl, by decide⟩

/-- A refused PULL, an under-run, and one that leaves samples. -/
theorem witness_PullToMono16 :
    (∃ s : State, s.astate ≠ .opened) ∧
    (∃ s : State, s.startCur < s.cfg.n ∧ s.endCur < s.cfg.n ∧ s.astate = .opened ∧ s.och = 1#3 ∧ s.ofmt = .unsigned16 ∧
      0 < s.ringSize ∧ s.ringSize < (9#24).toNat / 2 ∧ (3#24).toNat / 2 < s.ringSize) :=
  ⟨⟨State.reset, by decide⟩, ⟨full, by decide, by decide, rfl, rfl, rfl, by decide, by decide, by decide⟩⟩

/-- The most channels, in both formats. -/
theorem witness_PullToAnyFormat :
    (∃ s : State, s.startCur < s.cfg.n ∧ s.endCur < s.cfg.n ∧ s.astate = .opened ∧ s.och ≠ 0#3 ∧ s.ofmt = .unsigned16 ∧
      14 = s.och.toNat * (if s.ofmt = .unsigned16 then 2 else 1) ∧ 2 = min ((29#24).toNat / 14) s.ringSize) ∧
    (∃ s : State, s.startCur < s.cfg.n ∧ s.endCur < s.cfg.n ∧ s.astate = .opened ∧ s.och ≠ 0#3 ∧ s.ofmt = .unsigned8 ∧
      7 = s.och.toNat * (if s.ofmt = .unsigned16 then 2 else 1) ∧ 3 = min ((29#24).toNat / 7) s.ringSize) :=
  ⟨⟨{ full with och := 7#3 }, by decide, by decide, rfl, by decide, rfl, by decide, by decide⟩,
    ⟨{ full with och := 7#3, ofmt := .unsigned8 }, by decide, by decide, rfl, by decide, rfl, by decide, by decide⟩⟩

theorem witness_PullStaysInsideTheDevicesBuffer :
    ∃ t, full.startCur < full.cfg.n ∧ full.endCur < full.cfg.n ∧ exec (.pull 5#24) full = .next t ∧
      full.ofmt = .unsigned16 ∧ (5#24).toNat % 2 = 1 := ⟨_, by decide, by decide, rfl, rfl, by decide⟩

theorem witness_PullOnEmptyRingChangesNothing :
    ∃ s : State, s.astate = .opened ∧ s.endCur = s.startCur ∧ s.lock = .free := ⟨audio [] 2 2, rfl, rfl, rfl⟩

theorem witness_PushedSamplesComeOutUnmodified :
    ∃ s : State, s.startCur < s.cfg.n ∧ s.endCur = s.startCur ∧ s.astate = .opened ∧ s.och = 1#3 ∧
      s.ofmt = .unsigned16 ∧ [1#16, 2#16, 3#16].length ≤ s.cfg.n - 1 ∧ (6#24).toNat = 2 * [1#16, 2#16, 3#16].length :=
  ⟨audio [] 2 2, by decide, rfl, rfl, rfl, rfl, by decide, by decide⟩

/-- A run of both agents that drops a sample. -/
theorem witness_DeliveredStreamIsASubsequenceOfThePushed :
    ∃ t, full.startCur < full.cfg.n ∧ full.endCur < full.cfg.n ∧
      runCommands [.push [7#16], .rdovf, .pull 4#24, .close] full = .next t := ⟨_, by decide, by decide, rfl⟩

theorem witness_EverySampleIsDeliveredResidentOrCounted :
    ∃ t, full.startCur < full.cfg.n ∧ full.endCur < full.cfg.n ∧
      runCommands [.pull 2#24, .push [7#16, 8#16, 9#16], .inval] full = .next t := ⟨_, by decide, by decide, rfl⟩

theorem witness_CloseChangesTheAudioStateAlone : full.astate = .opened := rfl

theorem witness_NoCommandLeavesClosed :
    ∃ s t : State, s.astate = .closed ∧ exec .rdovf s = .next t := ⟨{ full with astate := .closed }, _, rfl, rfl⟩

/-- Buffers not ready; and a frame with a cell that is drawn beside one that is skipped. -/
theorem witness_RenderWritesThePixelsOfCellsNotSkipped :
    (∃ s : State, s.fbrdy = false) ∧
    (changed.cfg.wf ∧ changed.fbrdy = true ∧ changed.rf = false ∧ changed.chroma = false ∧
      changed.curAt (changed.cfg.cellAddr 0 1) ≠ changed.prevAt (changed.cfg.cellAddr 0 1) ∧
      changed.curAt (changed.cfg.cellAddr 0 0) = changed.prevAt (changed.cfg.cellAddr 0 0)) :=
  ⟨⟨{ changed with fbrdy := false }, rfl⟩, by decide⟩

/-- The last cell and pixel of geometry G1. -/
theorem witness_VisibleAddressesAreInRange :
    Config.p5.wf ∧ 0 < Config.p5.visH ∧ 1 < Config.p5.visW / 8 ∧ 7 < 8 := by decide

theorem witness_RenderRebaselinesTheWholeFrame :
    ∃ t, exec .render changed = .next t ∧ 11 < Space.size changed.cfg .prev := ⟨_, rfl, by decide⟩

theorem witness_RenderClearsTheRefreshFlag :
    unchanged.cfg.wf ∧ unchanged.fbrdy = true ∧ unchanged.rf = false ∧ unchanged.chroma = false := by decide

theorem witness_IdenticalFramesWriteNoPixel :
    unchanged.fbrdy = true ∧ unchanged.rf = false ∧ unchanged.chroma = false ∧
    ∀ y < unchanged.cfg.visH, ∀ cx < unchanged.cfg.visW / 8,
      unchanged.curAt (unchanged.cfg.cellAddr y cx) = unchanged.prevAt (unchanged.cfg.cellAddr y cx) := by decide

theorem witness_SecondRenderOfSameFrameWritesNothing :
    ∃ t, changed.cfg.wf ∧ changed.chroma = false ∧ exec .render changed = .next t := ⟨_, by decide, rfl, rfl⟩

/-- A requested refresh, and chroma mode without one. -/
theorem witness_FullRefreshRedrawsEveryVisiblePixel :
    (∃ s : State, s.cfg.wf ∧ s.fbrdy = true ∧ s.rf = true ∧ s.chroma = false) ∧
    (∃ s : State, s.cfg.wf ∧ s.fbrdy = true ∧ s.rf = false ∧ s.chroma = true) :=
  ⟨⟨{ changed with rf := true }, by decide, rfl, rfl, rfl⟩, ⟨{ changed with chroma := true }, by decide, rfl, rfl, rfl⟩⟩

theorem witness_InvertComplementsEachWrittenPixel :
    ∃ t, changed.cfg.wf ∧ changed.chroma = false ∧ exec .render changed = .next t := ⟨_, by decide, rfl, rfl⟩

/-- A border byte differs. -/
theorem witness_BorderBytesAreNeverDrawn :
    ∃ (cur' : Memory Byte) (t : State), changed.cfg.wf ∧ Memory.get? cur' 4 ≠ Memory.get? changed.cur 4 ∧
      (∀ y < changed.cfg.visH, ∀ cx < changed.cfg.visW / 8,
        State.curAt { changed with cur := cur' } (changed.cfg.cellAddr y cx) =
          changed.curAt (changed.cfg.cellAddr y cx)) ∧
      exec .render changed = .next t :=
  ⟨cells [0#8, 0#8, 0#8, 0#8, 0xAA#8, 0#8, 0xA5#8], _, by decide, by decide, by decide, rfl⟩

theorem witness_MonochromeRenderIgnoresTheColourPlane :
    ∃ t, changed.chroma = false ∧ exec .render changed = .next t := ⟨_, rfl, rfl⟩

/-- Each way the gate is closed, and the gate open. -/
theorem witness_EncodeLatchesTheKeysWhileTheGateIsOpen :
    (∃ s : State, s.active = false ∧ ¬ (s.active = true ∧ s.paused = false)) ∧
    (∃ s : State, s.paused = true ∧ ¬ (s.active = true ∧ s.paused = false)) ∧
    (∃ s : State, s.active = true ∧ s.paused = false ∧ s.cfg.keysInRange ∧ s.keyAt 40 = true) :=
  ⟨⟨{ keys [40] with active := false }, rfl, by decide⟩, ⟨{ keys [40] with paused := true }, rfl, by decide⟩,
    ⟨keys [40], rfl, rfl, by decide, by decide⟩⟩

/-- No bit position of key map KM1 lies beyond 4. -/
theorem slot_km1_eq_nil (r : BitVec 3) {j : Nat} (h : 5 ≤ j) : Config.p5.slot r j = [] := by
  have hr : ∀ r : BitVec 3, (Config.p5.keymap.getD r.toNat []).length = 5 := by decide
  rw [Config.slot, List.getD_eq_default _ _ (by rw [hr r]; exact h)]

/-- No key of the map pressed: code 45 is mapped nowhere. -/
theorem witness_NoKeyAndOneKeyRows_none :
    ∃ s : State, s.active = true ∧ s.paused = false ∧ s.cfg.wf ∧ s.keyAt 45 = true ∧
      ∀ r j, ∀ code ∈ s.cfg.slot r j, s.keyAt code = false := by
  refine ⟨keys [45], rfl, rfl, by decide, by decide, fun r j => ?_⟩
  by_cases h : 5 ≤ j
  · rw [show (keys [45]).cfg.slot r j = [] from slot_km1_eq_nil r h]; simp
  · have hd : ∀ r : BitVec 3, ∀ j < 5, ∀ code ∈ (keys [45]).cfg.slot r j, (keys [45]).keyAt code = false := by decide
    exact hd r j (by omega)

/-- No key but one of the set of slot (0, 0). -/
theorem witness_NoKeyAndOneKeyRows_one :
    ∃ s : State, s.active = true ∧ s.paused = false ∧ s.cfg.wf ∧
      (∀ code < s.cfg.maxKeycodes, s.keyAt code = true ↔ code = 40) ∧ 40 ∈ s.cfg.slot 0#3 0 ∧
      ∀ r j, 40 ∈ s.cfg.slot r j → r = 0#3 ∧ j = 0 := by
  refine ⟨keys [40], rfl, rfl, by decide, by decide, by decide, fun r j => ?_⟩
  by_cases h : 5 ≤ j
  · rw [show (keys [40]).cfg.slot r j = [] from slot_km1_eq_nil r h]; simp
  · have hd : ∀ r : BitVec 3, ∀ j < 5, 40 ∈ (keys [40]).cfg.slot r j → r = 0#3 ∧ j = 0 := by decide
    exact hd r j (by omega)

/-- The keys of another row differ. -/
theorem witness_RowDependsOnItsOwnSlots :
    ∃ t t' : State, (keys [39]).keyAt 39 ≠ (keys [0]).keyAt 39 ∧
      (∀ j < 5, ∀ code ∈ Config.p5.slot 1#3 j,
        State.keyAt { keys [0] with keystate := (keys [39]).keystate } code = (keys [0]).keyAt code) ∧
      exec .encode (keys [0]) = .next t ∧ exec .encode { keys [0] with keystate := (keys [39]).keystate } = .next t' :=
  ⟨_, _, by decide, by decide, rfl, rfl⟩

theorem witness_EncodeIsIdempotent : ∃ t, exec .encode (keys [0]) = .next t := ⟨_, rfl⟩

theorem witness_ReadRowResponseIsInRange : State.RowsOk { State.reset with kr := { Rows.reset with r7 := 0xE0#8 } } := by
  intro r; revert r; decide

/-- The least N, and a cursor at the last slot of a ring whose N is no power of two. -/
theorem witness_CursorsAreRegistersOfWidthWcur :
    2 ≤ { Config.p5 with n := 2 }.n ∧
    ∃ s : State, s.startCur < s.cfg.n ∧ s.endCur < s.cfg.n ∧ s.startCur = 4 ∧ s.cfg.n = 5 :=
  ⟨by decide, { audio [] 4 0 with cfg := { Config.p5 with n := 5 } }, by decide, by decide, rfl, rfl⟩

/-- An agent's action under the mark; RESET; a command on each port. -/
theorem witness_RefusalMarkStandsUntilReset :
    (∃ s t : State, s.mark = some .ringNotOpen ∧ s.turns = [.P] ∧ step s = .next t) ∧
    (∃ s t : State, s.mark = some .ringNotOpen ∧ s.turns = [.rst true] ∧ step s = .next t) ∧
    (∃ s : State, s.mark = some .ringNotOpen ∧ s.turns = [.P] ∧ s.resetIn = false ∧ s.portP = [.word 0x11000000#32]) ∧
    (∃ s : State, s.mark = some .ringNotOpen ∧ s.turns = [.C] ∧ s.resetIn = false ∧ s.portC = [.word 0x03000002#32]) :=
  ⟨⟨{ onP full [.act (.key 0 true)] with mark := some .ringNotOpen }, _, rfl, rfl, rfl⟩,
    ⟨{ full with mark := some .ringNotOpen, turns := [.rst true] }, _, rfl, rfl, rfl⟩,
    ⟨{ onP full [.word 0x11000000#32] with mark := some .ringNotOpen }, rfl, rfl, rfl, rfl⟩,
    ⟨{ onC full [.word 0x03000002#32] with mark := some .ringNotOpen }, rfl, rfl, rfl, rfl⟩⟩

/-- On port P a PUSH, and a RENDER. -/
theorem witness_ResetDuringAnOperationAbandonsIt_P :
    (∃ s : State, s.turns = [.rstDuring true false] ∧ s.resetIn = false ∧ s.mark = none ∧ s.lock = .free ∧
      decode .P s.portP = .ok (.push [5#16], []) ∧ s.Legal (.push [5#16])) ∧
    (∃ s : State, s.turns = [.rstDuring true false] ∧ s.resetIn = false ∧ s.mark = none ∧ s.lock = .free ∧
      decode .P s.portP = .ok (.render, []) ∧ s.Legal .render) :=
  ⟨⟨{ onP full [.word 0x02000001#32, .beat 5#16] with turns := [.rstDuring true false] }, rfl, rfl, rfl, rfl, rfl, rfl⟩,
    ⟨{ onP full [.word 0x10000000#32] with turns := [.rstDuring true false] }, rfl, rfl, rfl, rfl, rfl, rfl⟩⟩

/-- On port C a PULL, beside a PUSH that awaits beats, and beside a whole command. -/
theorem witness_ResetDuringAnOperationAbandonsIt_C :
    (∃ s : State, s.turns = [.rstDuring false true] ∧ s.resetIn = false ∧ s.mark = none ∧ s.lock = .free ∧
      decode .C s.portC = .ok (.pull 2#24, []) ∧ s.astate = .opened ∧ decode .P s.portP = .error .incomplete ∧
      s.portP ≠ []) ∧
    (∃ s : State, s.turns = [.rstDuring false true] ∧ s.resetIn = false ∧ s.mark = none ∧ s.lock = .free ∧
      decode .C s.portC = .ok (.pull 2#24, []) ∧ s.astate = .opened ∧ decode .P s.portP ≠ .error .incomplete) :=
  ⟨⟨{ onC full [.word 0x03000002#32] with turns := [.rstDuring false true], portP := [.word 0x02000001#32] },
      rfl, rfl, rfl, rfl, rfl, rfl, rfl, by decide⟩,
    ⟨{ onC full [.word 0x03000002#32] with turns := [.rstDuring false true], portP := [.word 0x10000000#32] },
      rfl, rfl, rfl, rfl, rfl, rfl, by intro h; cases h⟩⟩

/-- On both ports: a RENDER and a PULL; a PUSH and a PULL. -/
theorem witness_ResetDuringAnOperationAbandonsIt_both :
    (∃ s : State, s.turns = [.rstDuring true true] ∧ s.resetIn = false ∧ s.mark = none ∧ s.lock = .free ∧
      decode .P s.portP = .ok (.render, []) ∧ decode .C s.portC = .ok (.pull 2#24, []) ∧ s.Legal .render ∧
      s.astate = .opened) ∧
    (∃ s : State, s.turns = [.rstDuring true true] ∧ s.resetIn = false ∧ s.mark = none ∧ s.lock = .free ∧
      decode .P s.portP = .ok (.push [5#16], []) ∧ decode .C s.portC = .ok (.pull 2#24, []) ∧
      s.Legal (.push [5#16]) ∧ s.astate = .opened) :=
  ⟨⟨{ onC full [.word 0x03000002#32] with turns := [.rstDuring true true], portP := [.word 0x10000000#32] },
      rfl, rfl, rfl, rfl, rfl, rfl, rfl, rfl⟩,
    ⟨{ onC full [.word 0x03000002#32] with
        turns := [.rstDuring true true], portP := [.word 0x02000001#32, .beat 5#16] },
      rfl, rfl, rfl, rfl, rfl, rfl, rfl, rfl⟩⟩

/-- The two agents by turns. -/
def alternating (k : Nat) : Turn := if k % 2 = 0 then .P else .C

/-- A command on each port. -/
def waiting : State := { full with portP := [.word 0x11000000#32], portC := [.word 0x03000002#32] }

/-- The state after a turn of each. -/
def served : State := (next? (runSchedule alternating 2 waiting)).getD waiting

/-- Once both commands are performed, every later turn is idle. -/
theorem run_alternating (k : Nat) : runSchedule alternating (k + 2) waiting = .next served := by
  induction k with
  | zero => rfl
  | succ k ih =>
    rw [runSchedule, ih]
    unfold alternating
    simp only
    split <;> rfl

/-- A fair schedule, a command on each port, and a run that nothing stops. -/
theorem witness_FairScheduleServesEveryRequest :
    (∀ k, alternating k = .P ∨ alternating k = .C) ∧ WeaklyFair alternating ∧
    ∃ s : State, s.resetIn = false ∧ s.lock = .free ∧ decode .P s.portP = .ok (.inval, []) ∧
      decode .C s.portC = .ok (.pull 2#24, []) ∧
      ∀ k, ∃ t, runSchedule alternating k s = .next t ∧ t.mark = none := by
  refine ⟨fun k => by unfold alternating; split <;> simp, ⟨fun j => ⟨2 * j, by omega, ?_⟩, fun j => ⟨2 * j + 1, by omega, ?_⟩⟩,
    waiting, rfl, rfl, rfl, rfl, fun k => ?_⟩
  · simp [alternating]
  · simp [alternating, show (2 * j + 1) % 2 = 1 by omega]
  · match k with
    | 0 => exact ⟨_, rfl, rfl⟩
    | 1 => exact ⟨_, rfl, rfl⟩
    | k + 2 => exact ⟨served, run_alternating k, rfl⟩

end Sys2Proof.Tests
end

/-! Proofs for 00_scope.md: what an agent changes between two commands (O10), the parameters (O15), the width of the
cursors (O57). -/

namespace Sys2Proof.Machine

/-! An agent's action between two commands. -/

/-- A write gives one cell its value and keeps every other cell of the space. -/
theorem Memory.set_changes_only {α : Type} (m : Memory α) (a : Nat) (v : α) :
    Memory.get? (Memory.set m a v) a = some v ∧ ∀ b, b ≠ a → Memory.get? (Memory.set m a v) b = Memory.get? m b :=
  ⟨Memory.get?_set_same m a v, fun _ hb => Memory.get?_set_ne m v hb⟩

theorem State.checked_of_lt {s : State} {space : Space} {a : Nat} (h : a < Space.size s.cfg space) (t : State) :
    s.checked space a t = .ok t := if_pos h

/-- A checked write answers the state it was given. -/
theorem State.checked_ok {s t u : State} {space : Space} {a : Nat} (h : s.checked space a t = .ok u) : u = t := by
  unfold State.checked at h
  split at h
  · cases h; rfl
  · cases h

/-- The step of an action at the front of port P is that action, whatever RESET, the refusal mark and the lock hold. -/
theorem step_of_envAct {s t : State} {turns : List Turn} {a : EnvAction} {rest : List (PortItem EnvAction)}
    (hturn : s.turns = .P :: turns) (hport : s.portP = .act a :: rest)
    (hact : State.envAct { s with turns := turns, portP := rest } a = .ok t) : step s = .next t := by
  simp only [step, State.fetch, hturn, State.fetchP, hport, hact, Fetched.ofAction]

/-- The step of an action at the front of port C is that action, whatever RESET, the refusal mark and the lock hold. -/
theorem step_of_devAct {s t : State} {turns : List Turn} {a : DevAction} {rest : List (PortItem DevAction)}
    (hturn : s.turns = .C :: turns) (hport : s.portC = .act a :: rest)
    (hact : State.devAct { s with turns := turns, portC := rest } a = .ok t) : step s = .next t := by
  simp only [step, State.fetch, hturn, State.fetchC, hport, hact, Fetched.ofAction]

/-- Settles O10: the step is the action (`step_of_envAct`, `step_of_devAct`), and an action writes one cell of one space
(`Memory.set_changes_only`) or one level input. -/
theorem environmentChangeIsInPlaceForNextCommand : Obligations.EnvironmentChangeIsInPlaceForNextCommand := by
  refine ⟨fun s turns rest hturn => ⟨?cur, ?cpl, ?key, ?pix, ?input⟩, ?out⟩
  case cur =>
    intro a v hport ha
    exact ⟨_, step_of_envAct hturn hport (State.checked_of_lt ha _), Memory.set_changes_only s.cur a v⟩
  case cpl =>
    intro a v hport ha
    exact ⟨_, step_of_envAct hturn hport (State.checked_of_lt ha _), Memory.set_changes_only s.cpl a v⟩
  case key =>
    intro k v hport hk
    exact ⟨_, step_of_envAct hturn hport (State.checked_of_lt hk _), Memory.set_changes_only s.keystate k v⟩
  case pix =>
    intro p v hport hp
    exact ⟨_, step_of_envAct hturn hport (State.checked_of_lt hp _), Memory.set_changes_only s.pixout p v⟩
  case input =>
    intro v
    exact ⟨fun hport => step_of_envAct hturn hport rfl, fun hport => step_of_envAct hturn hport rfl,
      fun hport => step_of_envAct hturn hport rfl, fun hport => step_of_envAct hturn hport rfl,
      fun hport => step_of_envAct hturn hport rfl⟩
  case out =>
    intro s turns rest a v hturn hport ha
    exact ⟨_, step_of_devAct hturn hport (State.checked_of_lt (space := .outbuf) ha _),
      Memory.set_changes_only s.outbuf a v⟩

/-! The parameters: no operation of the block and no action of an agent writes them. -/

@[simp] theorem State.pushAll_cfg (s : State) (samples : List Sample) : (s.pushAll samples).cfg = s.cfg := by
  obtain ⟨_, _, _, _, h⟩ := s.pushAll_frame samples
  rw [h]

@[simp] theorem State.pullLoop_cfg (s : State) (k i : Nat) : (s.pullLoop k i).cfg = s.cfg := by
  obtain ⟨_, _, h⟩ := s.pullLoop_frame k i
  rw [h]

@[simp] theorem State.drive_cfg (s : State) (name : Input) (b : Bool) : (s.drive name b).cfg = s.cfg := by
  cases name <;> rfl

@[simp] theorem State.driveReset_cfg (s : State) (level : Bool) : (s.driveReset level).cfg = s.cfg := by
  obtain ⟨_, _, h⟩ | ⟨_, _, h⟩ := s.driveReset_cases level
  · rw [h]
  · rw [h]; rfl

@[simp] theorem State.cut_cfg (s : State) (onP onC : Bool) : (s.cut onP onC).cfg = s.cfg := by
  obtain ⟨_, _, _, _, _, _, _, _, _, h⟩ := s.cut_frame onP onC
  rw [h]; rfl

/-- A command that completes keeps the parameters. -/
theorem exec_keeps_cfg {i : Instr} {s t : State} (h : exec i s = .next t) : t.cfg = s.cfg := by
  cases i with
  | openReq rate ch fmt =>
    obtain ⟨_, _, _, _, rfl | ⟨_, _, rfl⟩⟩ := execOpen_next h <;> rfl
  | push samples => obtain ⟨_, rfl⟩ := execPush_next h; simp
  | pull n => obtain ⟨_, rfl⟩ := execPull_next h; simp
  | close => obtain ⟨_, rfl⟩ := execClose_next h; rfl
  | rdovf => cases h; rfl
  | render => obtain ⟨_, rfl⟩ := execRender_next h; rfl
  | inval => cases h; rfl
  | encode => obtain ⟨_, _, rfl⟩ | ⟨_, rfl⟩ := execEncode_next h <;> rfl
  | rdrow row => cases h; rfl

theorem State.envAct_keeps_cfg {s t : State} {a : EnvAction} (h : s.envAct a = .ok t) : t.cfg = s.cfg := by
  cases a with
  | cur => rw [State.checked_ok h]
  | cpl => rw [State.checked_ok h]
  | key => rw [State.checked_ok h]
  | input name b => cases h; exact s.drive_cfg name b
  | pix => rw [State.checked_ok h]

theorem State.devAct_keeps_cfg {s t : State} {a : DevAction} (h : s.devAct a = .ok t) : t.cfg = s.cfg := by
  cases a with
  | out => rw [State.checked_ok h]

/-- The state a turn hands on: after a quiet turn, or the one in which the command or violation is met. -/
def Fetched.state? : Fetched → Option State
  | .quiet t | .command _ t | .violation _ t => some t
  | .fault _ | .refused _ => none

theorem Fetched.state?_ofAction {x : Except Fault State} {t : State} (h : (Fetched.ofAction x).state? = some t) :
    x = .ok t := by
  cases x with
  | ok u => cases h; rfl
  | error r => cases h

theorem State.fetchP_keeps_cfg {s t : State} (h : s.fetchP.state? = some t) : t.cfg = s.cfg := by
  obtain hf | ⟨_, _, _, hf⟩ | ⟨_, _, hf⟩ | ⟨_, _, _, _, _, _, _, hf⟩ | ⟨_, _, _, _, _, _, hf⟩ := s.fetchP_cases
  all_goals rw [hf] at h
  · cases h; rfl
  · have hact := Fetched.state?_ofAction h
    exact (State.envAct_keeps_cfg hact :)
  · cases h
  · cases h; rfl
  · cases h; rfl

theorem State.fetchC_keeps_cfg {s t : State} (h : s.fetchC.state? = some t) : t.cfg = s.cfg := by
  obtain hf | ⟨_, _, _, hf⟩ | ⟨_, _, hf⟩ | ⟨_, _, _, _, _, _, _, hf⟩ | ⟨_, _, _, _, _, _, hf⟩ := s.fetchC_cases
  all_goals rw [hf] at h
  · cases h; rfl
  · have hact := Fetched.state?_ofAction h
    exact (State.devAct_keeps_cfg hact :)
  · cases h
  · cases h; rfl
  · cases h; rfl

/-- Every turn hands on the parameters it found. -/
theorem State.fetch_keeps_cfg {s t : State} (h : s.fetch.state? = some t) : t.cfg = s.cfg := by
  unfold State.fetch at h
  split at h
  case h_1 => cases h; rfl
  case h_2 => exact (State.fetchP_keeps_cfg h :)
  case h_3 => exact (State.fetchC_keeps_cfg h :)
  case h_4 => cases h; exact State.driveReset_cfg _ _
  case h_5 => cases h; exact State.cut_cfg _ _ _

/-- Settles O15, over the three ways a step can answer a next state (`step_next`). -/
theorem stepKeepsTheParameters : Obligations.StepKeepsTheParameters := by
  intro s t h
  obtain hf | ⟨i, u, hf, he | ⟨r, _, rfl⟩⟩ | ⟨r, u, hf, rfl⟩ := step_next h
  · exact State.fetch_keeps_cfg (by rw [hf]; rfl)
  · have hu : u.cfg = s.cfg := State.fetch_keeps_cfg (by rw [hf]; rfl)
    exact (exec_keeps_cfg he).trans hu
  · exact State.fetch_keeps_cfg (t := u) (by rw [hf]; rfl)
  · exact State.fetch_keeps_cfg (t := u) (by rw [hf]; rfl)

/-! The width of the cursors. -/

/-- `N` numbers fit a register of `WCUR` bits (00_scope.md R6). -/
theorem n_le_two_pow_wcur (c : Config) : c.n ≤ 2 ^ c.wcur :=
  Nat.le_of_pred_lt Nat.lt_log2_self

/-- One bit less than `WCUR` does not hold `N` numbers (00_scope.md R6). -/
theorem two_pow_wcur_pred_lt_n {c : Config} (h : 2 ≤ c.n) : 2 ^ (c.wcur - 1) < c.n := by
  have hlog : 2 ^ Nat.log2 (c.n - 1) ≤ c.n - 1 := Nat.log2_self_le (by omega)
  simp only [Config.wcur, Nat.add_sub_cancel]
  omega

/-- A number below `N` loses no bit in a register of `WCUR` bits (10_state.md R22, R23). -/
theorem toNat_ofNat_wcur {c : Config} {a : Nat} (h : a < c.n) : (BitVec.ofNat c.wcur a).toNat = a := by
  rw [BitVec.toNat_ofNat, Nat.mod_eq_of_lt (h.trans_le (n_le_two_pow_wcur c))]

/-- Settles O57: `WCUR` is least with `N ≤ 2 ^ WCUR`, so a number below `N` loses no bit in the register. -/
theorem cursorsAreRegistersOfWidthWcur : Obligations.CursorsAreRegistersOfWidthWcur :=
  ⟨fun c h => ⟨two_pow_wcur_pred_lt_n h, n_le_two_pow_wcur c⟩,
    fun _ hs he => ⟨toNat_ofNat_wcur hs, toNat_ofNat_wcur he⟩⟩

end Sys2Proof.Machine

/-! Proofs for 10_state.md: unspecified cells (O20), which command writes which cell (O16), the ring (O26), A_CLOSED
(O38), the rows (O56), the step on each port (O5, O8, O9) and the reset state (O11, O13). -/

namespace Sys2Proof.Machine

/-! What each command with a precondition comes to where the precondition holds. -/

theorem execOpen_of_idle {s : State} {rate : BitVec 20} {ch : BitVec 3} {fmt : SampleFormat} (hs : s.astate = .idle)
    (hch : ch ≠ 0#3) : execOpen rate ch fmt s =
      .next (State.takeAnswer (s.request ⟨rate, ch, fmt⟩).dropAnswer s.nextAnswer) := by
  rw [execOpen, if_neg (not_not_intro hs), if_neg hch]

theorem execPush_of_opened {s : State} {samples : List Sample} (hs : s.astate = .opened) :
    execPush samples s = .next ((s.acquire .P).pushAll samples).release := if_neg (not_not_intro hs)

theorem execPull_of_opened {s : State} {n : BitVec 24} (hs : s.astate = .opened) :
    execPull n s = .next ((s.acquire .C).pullLoop (s.framesFor n) 0).release := if_neg (not_not_intro hs)

theorem execClose_of_opened {s : State} (hs : s.astate = .opened) :
    execClose s = .next { s with astate := .closed } := if_neg (not_not_intro hs)

theorem execRender_of_fbrdy {s : State} (hs : s.fbrdy = true) :
    execRender s = .next s.paint.rebaseline.clearRefresh := if_pos hs

theorem execEncode_of_gateOpen {s : State} (hs : s.gateOpen = true) (hk : s.cfg.keysInRange) :
    execEncode s = .next s.encodeRows := by rw [execEncode, if_pos hs, if_pos hk]

theorem execEncode_of_gateClosed {s : State} (hs : s.gateOpen = false) : execEncode s = .next s :=
  if_neg (by simp [hs])

/-! Two states that differ in unspecified cells alone (O20): every shared operation takes such states to such states. -/

/-- The byte of a visible cell is a byte of CUR and PREV (20_memory.md R69). -/
theorem Config.cellAddr_lt {c : Config} (hc : c.wf) {y cx : Nat} (hy : y < c.visH) (hcx : cx < c.visW / 8) :
    c.cellAddr y cx < Space.size c .prev := by
  obtain ⟨_, ⟨_, _, _⟩, ⟨_, _, _, _⟩, ⟨_, _⟩, _⟩ := hc
  have hrow : (y + c.yOfs + 1) * c.stride ≤ c.fullH * c.stride := Nat.mul_le_mul_right _ (by omega)
  have hcol : c.xOfs / 8 + cx < c.stride := by simp only [Config.stride]; omega
  rw [Nat.succ_mul] at hrow
  simp only [Config.cellAddr, Space.size, Nat.mul_comm c.stride]
  omega

namespace State.Indistinct

variable {s s' : State}

/-- The second state is the first one with other values in the cells that may differ. -/
theorem exists_with (h : s.Indistinct s') : ∃ ring prev och ofmt epoch,
    s' = { s with ring := ring, prev := prev, och := och, ofmt := ofmt, epoch := epoch } := by
  refine ⟨s'.ring, s'.prev, s'.och, s'.ofmt, s'.epoch, ?_⟩
  conv_rhs => rw [← h.rest]

/-- What reads no cell that may differ is the same in both states. -/
theorem same (h : s.Indistinct s') {β : Type} (f : State → β)
    (hf : f { s' with ring := s.ring, prev := s.prev, och := s.och, ofmt := s.ofmt, epoch := s.epoch } = f s') :
    f s' = f s :=
  hf.symm.trans (congrArg f h.rest)

theorem astate_eq (h : s.Indistinct s') : s'.astate = s.astate := h.same State.astate rfl

theorem cfg_eq (h : s.Indistinct s') : s'.cfg = s.cfg := h.same State.cfg rfl

theorem ringSize_eq (h : s.Indistinct s') : s'.ringSize = s.ringSize := h.same State.ringSize rfl

theorem curAt_eq (h : s.Indistinct s') : s'.curAt = s.curAt := h.same State.curAt rfl

theorem cursorsOk (h : s.Indistinct s') (hc : s.CursorsOk) : s'.CursorsOk := by
  obtain ⟨_, _, _, _, _, rfl⟩ := h.exists_with; exact hc

/-! Operations that touch no cell that may differ. -/

theorem respond (h : s.Indistinct s') (w : Word) : (s.respond w).Indistinct (s'.respond w) := by
  obtain ⟨_, _, _, _, _, rfl⟩ := h.exists_with; exact ⟨rfl, h.resident, h.prev, h.format⟩

theorem request (h : s.Indistinct s') (r : OpenRequest) : (s.request r).Indistinct (s'.request r) := by
  obtain ⟨_, _, _, _, _, rfl⟩ := h.exists_with; exact ⟨rfl, h.resident, h.prev, h.format⟩

theorem acquire (h : s.Indistinct s') (l : Lock) : (s.acquire l).Indistinct (s'.acquire l) := by
  obtain ⟨_, _, _, _, _, rfl⟩ := h.exists_with; exact ⟨rfl, h.resident, h.prev, h.format⟩

theorem release (h : s.Indistinct s') : s.release.Indistinct s'.release := h.acquire .free

theorem encodeRows (h : s.Indistinct s') : s.encodeRows.Indistinct s'.encodeRows := by
  obtain ⟨_, _, _, _, _, rfl⟩ := h.exists_with; exact ⟨rfl, h.resident, h.prev, h.format⟩

theorem dropAnswer (h : s.Indistinct s') : s.dropAnswer.Indistinct s'.dropAnswer := by
  obtain ⟨_, _, _, _, _, rfl⟩ := h.exists_with
  cases hq : s.devAnswers with
  | nil => simp only [State.dropAnswer, hq]; exact ⟨rfl, h.resident, h.prev, h.format⟩
  | cons a rest => simp only [State.dropAnswer, hq]; exact ⟨rfl, h.resident, h.prev, h.format⟩

/-! Operations that decide such a cell, or after which it no longer matters. -/

/-- An answer with obtained parameters gives both states the same format (10_state.md R27). -/
theorem takeAnswer (h : s.Indistinct s') (a : DevAnswer) : (s.takeAnswer a).Indistinct (s'.takeAnswer a) := by
  obtain ⟨_, _, _, _, _, rfl⟩ := h.exists_with
  cases a with
  | fail => exact h.respond openFailed
  | ok c fmt => exact ⟨rfl, h.resident, h.prev, fun _ => ⟨rfl, rfl⟩⟩

theorem close (h : s.Indistinct s') : State.Indistinct { s with astate := .closed } { s' with astate := .closed } := by
  obtain ⟨_, _, _, _, _, rfl⟩ := h.exists_with; exact ⟨rfl, h.resident, h.prev, nofun⟩

theorem invalidate (h : s.Indistinct s') : State.Indistinct { s with rf := true } { s' with rf := true } := by
  obtain ⟨_, _, _, _, _, rfl⟩ := h.exists_with; exact ⟨rfl, h.resident, nofun, h.format⟩

/-! The ring: a slot is written before it becomes resident, and only a resident one is delivered (10_state.md R21). -/

theorem push1 (h : s.Indistinct s') (hc : s.CursorsOk) (v : Sample) : (s.push1 v).Indistinct (s'.push1 v) := by
  have hc' := h.cursorsOk hc
  have hres : (s.push1 v).resident = (s'.push1 v).resident := by
    rw [State.resident_push1 hc, State.resident_push1 hc', h.resident, h.ringSize_eq, h.cfg_eq]
  obtain ⟨_, _, _, _, _, rfl⟩ := h.exists_with
  rw [State.push1_eq hc, State.push1_eq hc'] at hres ⊢
  exact ⟨rfl, hres, h.prev, h.format⟩

theorem pushAll (h : s.Indistinct s') (hc : s.CursorsOk) (vs : List Sample) :
    (s.pushAll vs).Indistinct (s'.pushAll vs) := by
  induction vs generalizing s s' with
  | nil => exact h
  | cons v vs ih => exact ih (h.push1 hc v) (hc.push1 v)

theorem pullLoop (h : s.Indistinct s') (hc : s.CursorsOk) (ho : s.astate = .opened) (k i : Nat) :
    (s.pullLoop k i).Indistinct (s'.pullLoop k i) := by
  have hc' := h.cursorsOk hc
  obtain ⟨hoch, hofmt⟩ := h.format ho
  have hres : (s.pullLoop k i).resident = (s'.pullLoop k i).resident := by
    rw [State.resident_pullLoop hc, State.resident_pullLoop hc', h.resident, h.ringSize_eq]
  have hdel : s.samplesFrom (min k s.ringSize) = s'.samplesFrom (min k s'.ringSize) := by
    rw [State.samplesFrom_eq_take _ (min_le_right _ _), State.samplesFrom_eq_take _ (min_le_right _ _), h.resident,
      h.ringSize_eq]
  obtain ⟨_, _, _, _, _, rfl⟩ := h.exists_with
  subst hoch hofmt
  rw [State.pullLoop_eq hc, State.pullLoop_eq hc', ← hdel] at hres ⊢
  exact ⟨rfl, hres, h.prev, h.format⟩

/-! The screen: PREV is read only while no full refresh is requested, and RENDER writes all of it (10_state.md R30). -/

theorem skipped_eq (h : s.Indistinct s') (hcfg : s.cfg.wf) {y cx : Nat} (hy : y < s.cfg.visH)
    (hcx : cx < s.cfg.visW / 8) : s'.skipped y cx = s.skipped y cx := by
  have hrf' : s'.rf = s.rf := h.same State.rf rfl
  have hchroma : s'.chroma = s.chroma := h.same State.chroma rfl
  cases hrf : s.rf with
  | true => simp [State.skipped, hrf', hrf]
  | false =>
    have hprev := h.prev hrf _ (Config.cellAddr_lt hcfg hy hcx)
    simp only [State.skipped, hrf', hchroma, h.cfg_eq, h.curAt_eq, hprev]

theorem renderWrites_eq (h : s.Indistinct s') (hcfg : s.cfg.wf) : s'.renderWrites = s.renderWrites := by
  have hpixel : s'.cellPixel = s.cellPixel := h.same State.cellPixel rfl
  simp only [State.renderWrites, State.cellWrites, h.cfg_eq, hpixel]
  refine List.flatMap_congr fun y hy => List.flatMap_congr fun cx hcx => ?_
  rw [h.skipped_eq hcfg (List.mem_range.1 hy) (List.mem_range.1 hcx)]

theorem paint (h : s.Indistinct s') (hcfg : s.cfg.wf) : s.paint.Indistinct s'.paint := by
  have hw := h.renderWrites_eq hcfg
  obtain ⟨_, _, _, _, _, rfl⟩ := h.exists_with
  rw [State.paint, State.paint, hw]
  exact ⟨rfl, h.resident, h.prev, h.format⟩

/-- The bulk copy makes PREV equal to CUR in both states, so that the flag may be cleared. -/
theorem rebaseline_clearRefresh (h : s.Indistinct s') :
    s.rebaseline.clearRefresh.Indistinct s'.rebaseline.clearRefresh := by
  have hprev : ∀ a < Space.size s.cfg .prev, s.rebaseline.prevAt a = s'.rebaseline.prevAt a := by
    intro a ha
    rw [State.rebaseline_prevAt s ha, State.rebaseline_prevAt s' (h.cfg_eq ▸ ha), h.curAt_eq]
  obtain ⟨_, _, _, _, _, rfl⟩ := h.exists_with
  exact ⟨rfl, h.resident, fun _ => hprev, h.format⟩

end State.Indistinct

/-- Settles O20, command by command: the precondition reads no cell that may differ, and the operations of
`State.Indistinct` carry the relation through. -/
theorem unspecifiedCellsInfluenceNothing : Obligations.UnspecifiedCellsInfluenceNothing := by
  intro i s s' t hcfg hstart hend h hex
  have hc : s.CursorsOk := ⟨hstart, hend⟩
  cases i with
  | openReq rate ch fmt =>
    obtain ⟨hi, hch, _⟩ := execOpen_next hex
    rw [exec_openReq, execOpen_of_idle hi hch] at hex
    cases hex
    refine ⟨_, execOpen_of_idle (h.astate_eq.trans hi) hch, ?_⟩
    rw [h.same State.nextAnswer rfl]
    exact (h.request _).dropAnswer.takeAnswer _
  | push samples =>
    obtain ⟨ho, rfl⟩ := execPush_next hex
    exact ⟨_, execPush_of_opened (h.astate_eq.trans ho), ((h.acquire .P).pushAll hc samples).release⟩
  | pull n =>
    obtain ⟨ho, rfl⟩ := execPull_next hex
    have hframes : s.framesFor n = s'.framesFor n := by
      obtain ⟨hoch, hofmt⟩ := h.format ho
      simp only [State.framesFor, State.frameSize, hoch, hofmt]
    rw [hframes]
    exact ⟨_, execPull_of_opened (h.astate_eq.trans ho), ((h.acquire .C).pullLoop hc ho _ 0).release⟩
  | close =>
    obtain ⟨ho, rfl⟩ := execClose_next hex
    exact ⟨_, execClose_of_opened (h.astate_eq.trans ho), h.close⟩
  | rdovf =>
    cases hex
    have hovf : s'.ovf = s.ovf := h.same State.ovf rfl
    exact ⟨_, rfl, hovf ▸ h.respond s'.ovf⟩
  | render =>
    obtain ⟨hb, rfl⟩ := execRender_next hex
    exact ⟨_, execRender_of_fbrdy ((h.same State.fbrdy rfl).trans hb), (h.paint hcfg).rebaseline_clearRefresh⟩
  | inval => cases hex; exact ⟨_, rfl, h.invalidate⟩
  | encode =>
    have hgate : s'.gateOpen = s.gateOpen := h.same State.gateOpen rfl
    obtain ⟨hg, hk, rfl⟩ | ⟨hg, rfl⟩ := execEncode_next hex
    · exact ⟨_, execEncode_of_gateOpen (hgate.trans hg) (h.cfg_eq ▸ hk), h.encodeRows⟩
    · exact ⟨_, execEncode_of_gateClosed (hgate.trans hg), h⟩
  | rdrow row =>
    cases hex
    have hkr : s'.kr = s.kr := h.same State.kr rfl
    exact ⟨_, rfl, hkr ▸ h.respond (rowResponse (s'.kr.get row))⟩

/-! Which command writes which cell (O16, O38). -/

/-- Settles O16: what each command that completes leaves is an update of its own cells alone (the inversion lemmas of
Laws/Exec.lean and the frames of the loops of PUSH and PULL). -/
theorem eachCellIsWrittenOnlyByItsCommands : Obligations.EachCellIsWrittenOnlyByItsCommands := by
  intro i s t h
  cases i with
  | openReq rate ch fmt =>
    obtain ⟨_, _, _, _, rfl | ⟨_, _, rfl⟩⟩ := execOpen_next h
    · simp [State.openFailedWith]
    · simp [State.openedWith]
  | push samples =>
    obtain ⟨_, rfl⟩ := execPush_next h
    obtain ⟨_, _, _, _, hp⟩ := (s.acquire .P).pushAll_frame samples
    simp [hp]
  | pull n =>
    obtain ⟨_, rfl⟩ := execPull_next h
    obtain ⟨_, _, hp⟩ := (s.acquire .C).pullLoop_frame (s.framesFor n) 0
    simp [hp]
  | close => obtain ⟨_, rfl⟩ := execClose_next h; simp
  | rdovf => cases h; simp
  | render => obtain ⟨_, rfl⟩ := execRender_next h; simp
  | inval => cases h; simp
  | encode => obtain ⟨_, _, rfl⟩ | ⟨_, rfl⟩ := execEncode_next h <;> simp
  | rdrow row => cases h; simp

/-- A_CLOSED meets the precondition of neither command that writes the audio state. -/
theorem exec_keeps_astate_of_closed {i : Instr} {s t : State} (hs : s.astate = .closed) (h : exec i s = .next t) :
    t.astate = s.astate := by
  obtain ⟨_, _, _, _, hkept, _⟩ := eachCellIsWrittenOnlyByItsCommands i s t h
  refine hkept ?_ ?_
  · rintro rate ch fmt rfl
    obtain ⟨hidle, _⟩ := execOpen_next h
    simp [hs] at hidle
  · rintro rfl
    obtain ⟨hopen, _⟩ := execClose_next h
    simp [hs] at hopen

/-- Settles O38. -/
theorem noCommandLeavesClosed : Obligations.NoCommandLeavesClosed :=
  fun _ _ _ hs h => (exec_keeps_astate_of_closed hs h).trans hs

/-! The ring (O26). -/

/-- A PUSH of one sample in A_OPEN is one `push1` under the lock. -/
theorem exec_push_singleton {s : State} (hs : s.astate = .opened) (v : Sample) :
    exec (.push [v]) s = .next ((s.acquire .P).push1 v).release := execPush_of_opened hs

theorem State.ringAt_push1 {s : State} (h : s.CursorsOk) (v : Sample) (a : Nat) :
    (s.push1 v).ringAt a = if a = s.endCur then v else s.ringAt a := by
  rw [← State.ringAt_writeSlot, State.push1_eq h]
  rfl

/-- At capacity `push1` drops the oldest sample, whose slot is the next one written (40_audio_ring.md R142). -/
theorem State.push1_of_full {s : State} (h : s.CursorsOk) (hfull : s.ringSize = s.cfg.n - 1) (v : Sample) :
    (s.push1 v).endCur = s.startCur ∧ (s.push1 v).ringSize = s.ringSize ∧ (s.push1 v).ovf = s.ovf + 1#32 := by
  have hmeet := (State.writeSlot_meets_iff h v).2 hfull
  refine ⟨?_, ?_, ?_⟩
  · rw [State.push1_eq h]
    exact of_decide_eq_true hmeet
  · rw [State.ringSize_push1 h]; omega
  · rw [State.push1_eq h, show s.ringSize + 1 - (s.cfg.n - 1) = 1 by omega]

/-- Below capacity `push1` drops nothing (40_audio_ring.md R142). -/
theorem State.push1_of_not_full {s : State} (h : s.CursorsOk) (hroom : s.ringSize < s.cfg.n - 1) (v : Sample) :
    (s.push1 v).startCur = s.startCur ∧ (s.push1 v).ringSize = s.ringSize + 1 ∧ (s.push1 v).ovf = s.ovf := by
  have hnone : s.ringSize + 1 - (s.cfg.n - 1) = 0 := by omega
  refine ⟨?_, ?_, ?_⟩
  · rw [State.push1_eq h, hnone, Nat.add_zero, Nat.mod_eq_of_lt h.1]
  · rw [State.ringSize_push1 h]; omega
  · rw [State.push1_eq h, hnone]; exact BitVec.add_zero _

/-- Settles O26: the slot `end` names is no resident one, and `push1` writes that slot alone. -/
theorem pushNeverOverwritesAResidentSample : Obligations.PushNeverOverwritesAResidentSample := by
  intro s v hstart hend ho
  have hc : s.CursorsOk := ⟨hstart, hend⟩
  have hacq : (s.acquire .P).CursorsOk := hc
  refine ⟨fun j hj => State.resident_slot_ne_end hc hj, _, exec_push_singleton ho v, fun j hj => ?_,
    fun hfull => State.push1_of_full hacq hfull v, fun hroom => State.push1_of_not_full hacq hroom v⟩
  exact (State.ringAt_push1 hacq v _).trans (if_neg (State.resident_slot_ne_end hc hj))

/-! The rows (O56). -/

/-- A row whose bits 7:5 are 1 is responded as a word in `0xE0 .. 0xFF` (10_state.md R35). -/
theorem rowResponse_range {v : Byte} (h : v.extractLsb' 5 3 = 0b111#3) :
    0xE0#32 ≤ rowResponse v ∧ rowResponse v ≤ 0xFF#32 := by
  have hv := v.isLt
  have htop : v.toNat / 2 ^ 5 % 2 ^ 3 = 7 := by
    have := congrArg BitVec.toNat h
    rwa [BitVec.extractLsb'_toNat, Nat.shiftRight_eq_div_pow] at this
  have hword : (rowResponse v).toNat = v.toNat := by
    rw [rowResponse, BitVec.toNat_setWidth]; omega
  rw [BitVec.le_def, BitVec.le_def, hword]
  simp only [BitVec.toNat_ofNat]
  omega

/-- Settles O56. -/
theorem readRowResponseIsInRange : Obligations.ReadRowResponseIsInRange :=
  fun _ row hrows => ⟨_, rfl, rowResponse_range (hrows row)⟩

/-! A turn of an agent with a command word at the front of its port (O5, O8, O9). -/

/-- What decodes begins with a command word (30_encoding.md R100). -/
theorem decode_ok_word {Act : Type} {p : Port} {items rest : List (PortItem Act)} {i : Instr}
    (h : decode p items = .ok (i, rest)) : ∃ w later, items = .word w :: later := by
  cases items with
  | nil => cases h
  | cons item later =>
    cases item with
    | word w => exact ⟨w, later, rfl⟩
    | beat v => cases h
    | act a => cases h

/-- Why a command word is rejected: the reserved encodings of 30_encoding.md R112. OPEN is rejected by its channels on
port P alone. -/
theorem decodeWord_error {p : Port} {w : Word} {why : Reject} (h : decodeWord p w = .error why) :
    why = .reservedOpcode ∨ why = .wrongPort ∨ why = .reservedBits ∨ (why = .zeroChannels ∧ p = .P) := by
  unfold decodeWord at h
  split at h
  · cases h; simp
  · rename_i op _
    split at h
    · rename_i hport
      cases op <;> simp only [decodeFields, decodeZ, decodeO, decodeR] at h
      case openReq => split at h <;> cases h; exact .inr (.inr (.inr ⟨rfl, hport.symm⟩))
      case push => cases h
      case pull => cases h
      all_goals split at h <;> cases h; simp
    · cases h; simp

theorem decode_of_rejected_word {Act : Type} {p : Port} {w : Word} {why : Reject} (h : decodeWord p w = .error why)
    (rest : List (PortItem Act)) : decode p (.word w :: rest) = .error why := by
  simp only [decode, h]

/-- A command at the front of port P starts if it need not wait. -/
theorem State.fetchP_of_decode {s : State} {i : Instr} {rest : List (PortItem EnvAction)} (hr : s.resetIn = false)
    (hm : s.mark = none) (hd : decode .P s.portP = .ok (i, rest)) (hw : s.mustWait i = false) :
    s.fetchP = .command i { s with portP := rest } := by
  obtain ⟨w, later, hport⟩ := decode_ok_word hd
  rw [hport] at hd
  simp [State.fetchP, hport, hr, hm, hd, hw]

/-- A command at the front of port C starts if it need not wait. -/
theorem State.fetchC_of_decode {s : State} {i : Instr} {rest : List (PortItem DevAction)} (hr : s.resetIn = false)
    (hm : s.mark = none) (hd : decode .C s.portC = .ok (i, rest)) (hw : s.mustWait i = false) :
    s.fetchC = .command i { s with portC := rest } := by
  obtain ⟨w, later, hport⟩ := decode_ok_word hd
  rw [hport] at hd
  simp [State.fetchC, hport, hr, hm, hd, hw]

/-- A command on port P that must wait leaves its turn unused, RESET asserted or not. -/
theorem State.fetchP_of_wait {s : State} {i : Instr} {rest : List (PortItem EnvAction)} (hm : s.mark = none)
    (hd : decode .P s.portP = .ok (i, rest)) (hw : s.mustWait i = true) : s.fetchP = .quiet s := by
  obtain ⟨w, later, hport⟩ := decode_ok_word hd
  rw [hport] at hd
  simp [State.fetchP, hport, hm, hd, hw]

/-- A command on port C that must wait leaves its turn unused, RESET asserted or not. -/
theorem State.fetchC_of_wait {s : State} {i : Instr} {rest : List (PortItem DevAction)} (hm : s.mark = none)
    (hd : decode .C s.portC = .ok (i, rest)) (hw : s.mustWait i = true) : s.fetchC = .quiet s := by
  obtain ⟨w, later, hport⟩ := decode_ok_word hd
  rw [hport] at hd
  simp [State.fetchC, hport, hm, hd, hw]

/-- A rejected word on port P is a violation: no reason of `decodeWord` is a wait for beats. -/
theorem State.fetchP_of_rejected {s : State} {w : Word} {rest : List (PortItem EnvAction)} {why : Reject}
    (hr : s.resetIn = false) (hm : s.mark = none) (hport : s.portP = .word w :: rest)
    (hw : decodeWord .P w = .error why) :
    s.fetchP = .violation (s.rejection why) { s with portP := rest } := by
  have hd := decode_of_rejected_word hw rest
  obtain rfl | rfl | rfl | ⟨rfl, -⟩ := decodeWord_error hw <;> simp [State.fetchP, hport, hr, hm, hd]

/-- A rejected word on port C is a violation: no reason of `decodeWord` is a wait for beats. -/
theorem State.fetchC_of_rejected {s : State} {w : Word} {rest : List (PortItem DevAction)} {why : Reject}
    (hr : s.resetIn = false) (hm : s.mark = none) (hport : s.portC = .word w :: rest)
    (hw : decodeWord .C w = .error why) :
    s.fetchC = .violation (s.rejection why) { s with portC := rest } := by
  have hd := decode_of_rejected_word hw rest
  obtain rfl | rfl | rfl | ⟨rfl, -⟩ := decodeWord_error hw <;> simp [State.fetchC, hport, hr, hm, hd]

theorem State.fetch_of_turnP {s : State} {turns : List Turn} (h : s.turns = .P :: turns) :
    s.fetch = State.fetchP { s with turns := turns } := by
  simp only [State.fetch, h]

theorem State.fetch_of_turnC {s : State} {turns : List Turn} (h : s.turns = .C :: turns) :
    s.fetch = State.fetchC { s with turns := turns } := by
  simp only [State.fetch, h]

theorem step_of_command {s u : State} {i : Instr} (h : s.fetch = .command i u) : step s = u.settle (exec i u) := by
  rw [step, h]

theorem step_of_violation {s u : State} {r : Refusal} (h : s.fetch = .violation r u) :
    step s = .next (u.violate r) := by
  rw [step, h]

theorem step_of_quiet {s u : State} (h : s.fetch = .quiet u) : step s = .next u := by
  rw [step, h]

/-- A violation writes nothing the environment or the device decides. -/
theorem State.SameSurroundings.violate {s u : State} (h : s.SameSurroundings u) (r : Refusal) :
    s.SameSurroundings (u.violate r) :=
  ⟨h.cur, h.cpl, h.keystate, h.inv, h.chroma, h.fbrdy, h.active, h.paused, h.cfg, h.devAnswers⟩

theorem State.sameSurroundings_ports (s : State) (turns : List Turn) (itemsP : List (PortItem EnvAction))
    (itemsC : List (PortItem DevAction)) :
    s.SameSurroundings { s with turns := turns, portP := itemsP, portC := itemsC } :=
  ⟨rfl, rfl, rfl, rfl, rfl, rfl, rfl, rfl, rfl, rfl⟩

theorem State.mustWait_of_free {s : State} (h : s.lock = .free) (i : Instr) : s.mustWait i = false := by
  simp [State.mustWait, h]

theorem State.mustWait_of_held {s : State} {i : Instr} (hi : takesLock i = true) (h : s.lock ≠ .free) :
    s.mustWait i = true := by
  simp [State.mustWait, hi, h]

/-- Settles O5: the turn starts the command (`State.fetchP_of_decode`, `State.fetchC_of_decode`), and its outcome is
settled in the state in which its items are taken. -/
theorem stepRunsDecodedCommand : Obligations.StepRunsDecodedCommand := by
  constructor
  case left =>
    intro s turns i rest hturn hr hm hl hd
    have hf : s.fetch = .command i { s with turns := turns, portP := rest } :=
      (State.fetch_of_turnP hturn).trans (State.fetchP_of_decode hr hm hd (State.mustWait_of_free hl i))
    rw [step_of_command hf]
    generalize exec i _ = outcome
    cases outcome with
    | next t => rfl
    | fault r => rfl
    | refused r =>
      exact ⟨_, rfl, rfl, rfl, rfl, rfl, hr, (s.sameSurroundings_ports turns rest s.portC).violate r⟩
  case right =>
    intro s turns i rest hturn hr hm hl hd
    have hf : s.fetch = .command i { s with turns := turns, portC := rest } :=
      (State.fetch_of_turnC hturn).trans (State.fetchC_of_decode hr hm hd (State.mustWait_of_free hl i))
    rw [step_of_command hf]
    generalize exec i _ = outcome
    cases outcome with
    | next t => rfl
    | fault r => rfl
    | refused r =>
      exact ⟨_, rfl, rfl, rfl, rfl, rfl, hr, (s.sameSurroundings_ports turns s.portP rest).violate r⟩

/-- Settles O8: the three commands are those that take the lock. -/
theorem requestWaitsForHeldLock : Obligations.RequestWaitsForHeldLock := by
  constructor
  case left =>
    intro s turns i rest hturn hm hl hd hi
    have htakes : takesLock i = true := by obtain ⟨_, rfl⟩ | rfl := hi <;> rfl
    exact step_of_quiet ((State.fetch_of_turnP hturn).trans
      (State.fetchP_of_wait hm hd (State.mustWait_of_held htakes hl)))
  case right =>
    intro s turns n rest hturn hm hl hd
    exact step_of_quiet ((State.fetch_of_turnC hturn).trans
      (State.fetchC_of_wait hm hd (State.mustWait_of_held rfl hl)))

/-- Port C rejects no word for its channels, so the order of OPEN's checks does not show there. -/
theorem State.rejection_of_portC (s : State) {w : Word} {why : Reject} (h : decodeWord .C w = .error why) :
    s.rejection why = .reservedEncoding why := by
  refine if_neg fun ⟨hzero, _⟩ => ?_
  obtain rfl | rfl | rfl | ⟨_, hport⟩ := decodeWord_error h
  · cases hzero
  · cases hzero
  · cases hzero
  · cases hport

/-- Settles O9: a rejected word is a violation on either port (`State.fetchP_of_rejected`, `State.fetchC_of_rejected`). -/
theorem reservedWordIsRefused : Obligations.ReservedWordIsRefused := by
  constructor
  case left =>
    intro s turns w rest why hturn hr hm hport hw
    have hf := (State.fetch_of_turnP hturn).trans (State.fetchP_of_rejected hr hm hport hw)
    exact ⟨_, step_of_violation hf, rfl, rfl, rfl, rfl, (s.sameSurroundings_ports turns rest s.portC).violate _⟩
  case right =>
    intro s turns w rest why hturn hr hm hport hw
    have hf := (State.fetch_of_turnC hturn).trans (State.fetchC_of_rejected hr hm hport hw)
    rw [State.rejection_of_portC _ hw] at hf
    exact ⟨_, step_of_violation hf, rfl, rfl, rfl, rfl, (s.sameSurroundings_ports turns s.portP rest).violate _⟩

/-! The reset state (O11, O13). -/

/-- Settles O11. -/
theorem resetStateHasTheSpecsValues : Obligations.ResetStateHasTheSpecsValues :=
  ⟨rfl, rfl, rfl, rfl, rfl, rfl, Rows.get_reset, rfl, rfl, rfl, rfl, rfl, rfl, rfl⟩

theorem Memory.within_nil {α : Type} (size : Nat) : Memory.within size ([] : Memory α) := ⟨List.Pairwise.nil, nofun⟩

theorem Config.p5_wf : Config.p5.wf := by decide

theorem State.reset_spacesOk : State.reset.SpacesOk where
  ring := Memory.within_nil _
  outbuf := Memory.within_nil _
  cur := Memory.within_nil _
  prev := Memory.within_nil _
  cpl := Memory.within_nil _
  pixout := Memory.within_nil _
  keystate := Memory.within_nil _

theorem State.reset_audioOk : State.reset.AudioOk where
  start_lt := by decide
  end_lt := by decide
  written := by decide
  lock_free := rfl
  channels := nofun
  idle_empty := fun _ => ⟨rfl, rfl⟩

/-- Settles O13, conjunct by conjunct of the invariant. -/
theorem resetMeetsTheInvariant : Obligations.ResetMeetsTheInvariant where
  params := Config.p5_wf
  spaces := State.reset_spacesOk
  audio := fun _ => State.reset_audioOk
  prev := fun _ => nofun
  rows := fun _ r => by rw [show State.reset.kr = Rows.reset from rfl, Rows.get_reset]; rfl

end Sys2Proof.Machine

/-! Proofs for 20_memory.md: the order of the samples (O35, O36), PULL beside the other units (O21), the bytes of a PULL
(O30, O32), the visible addresses (O41), abandonment (O59) and fairness (O60). -/

namespace Sys2Proof.Machine

/-! What every command that completes keeps of the interface, and what all but PUSH and PULL keep of the ring. -/

/-- A command that completes moves no item of a port, no turn, and neither RESET nor the count of resets. -/
theorem exec_keeps_interface {i : Instr} {s t : State} (h : exec i s = .next t) :
    t.portP = s.portP ∧ t.portC = s.portC ∧ t.turns = s.turns ∧ t.resetIn = s.resetIn ∧ t.epoch = s.epoch := by
  cases i with
  | openReq rate ch fmt =>
    obtain ⟨_, _, _, _, rfl | ⟨_, _, rfl⟩⟩ := execOpen_next h <;> exact ⟨rfl, rfl, rfl, rfl, rfl⟩
  | push samples =>
    obtain ⟨_, rfl⟩ := execPush_next h
    obtain ⟨_, _, _, _, hp⟩ := (s.acquire .P).pushAll_frame samples
    rw [hp]; exact ⟨rfl, rfl, rfl, rfl, rfl⟩
  | pull n =>
    obtain ⟨_, rfl⟩ := execPull_next h
    obtain ⟨_, _, hp⟩ := (s.acquire .C).pullLoop_frame (s.framesFor n) 0
    rw [hp]; exact ⟨rfl, rfl, rfl, rfl, rfl⟩
  | close => obtain ⟨_, rfl⟩ := execClose_next h; exact ⟨rfl, rfl, rfl, rfl, rfl⟩
  | rdovf => cases h; exact ⟨rfl, rfl, rfl, rfl, rfl⟩
  | render => obtain ⟨_, rfl⟩ := execRender_next h; exact ⟨rfl, rfl, rfl, rfl, rfl⟩
  | inval => cases h; exact ⟨rfl, rfl, rfl, rfl, rfl⟩
  | encode => obtain ⟨_, _, rfl⟩ | ⟨_, rfl⟩ := execEncode_next h <;> exact ⟨rfl, rfl, rfl, rfl, rfl⟩
  | rdrow row => cases h; exact ⟨rfl, rfl, rfl, rfl, rfl⟩

/-- The resident samples are read from the ring and the cursors alone. -/
theorem State.resident_congr {s t : State} (hring : t.ring = s.ring) (hstart : t.startCur = s.startCur)
    (hend : t.endCur = s.endCur) (hcfg : t.cfg = s.cfg) (hepoch : t.epoch = s.epoch) : t.resident = s.resident := by
  simp only [State.resident, State.samplesFrom, State.ringSize, State.ringAt, hring, hstart, hend, hcfg, hepoch]

/-- A command other than PUSH and PULL moves no sample. -/
theorem exec_keeps_samples {i : Instr} {s t : State} (h : exec i s = .next t) (hpush : ∀ samples, i ≠ .push samples)
    (hpull : ∀ n, i ≠ .pull n) :
    t.resident = s.resident ∧ t.ovf = s.ovf ∧ t.startCur = s.startCur ∧ t.endCur = s.endCur := by
  obtain ⟨hwrite, hread, _⟩ := eachCellIsWrittenOnlyByItsCommands i s t h
  obtain ⟨hring, hend, hovf⟩ := hwrite hpush
  obtain ⟨hstart, -⟩ := hread hpush hpull
  obtain ⟨_, _, _, _, hepoch⟩ := exec_keeps_interface h
  exact ⟨State.resident_congr hring hstart hend (exec_keeps_cfg h) hepoch, hovf, hstart, hend⟩

/-- Every command that completes keeps the cursors in range (10_state.md R22, R23). -/
theorem exec_keeps_cursorsOk {i : Instr} {s t : State} (hc : s.CursorsOk) (h : exec i s = .next t) : t.CursorsOk := by
  cases i with
  | push samples =>
    obtain ⟨_, rfl⟩ := execPush_next h
    have hacq : (s.acquire .P).CursorsOk := hc
    exact (hacq.pushAll samples :)
  | pull n =>
    obtain ⟨_, rfl⟩ := execPull_next h
    have hacq : (s.acquire .C).CursorsOk := hc
    exact (hacq.pullLoop (s.framesFor n) 0 :)
  | openReq | close | rdovf | render | inval | encode | rdrow =>
    obtain ⟨-, -, hstart, hend⟩ := exec_keeps_samples h nofun nofun
    rw [State.CursorsOk, hstart, hend, exec_keeps_cfg h]
    exact hc

/-! The order of the samples (O35, O36): one relation between what goes in and what comes out, kept by every command. -/

/-- The samples `output` are those of `input` in their order, and the counter, moved from `before` to `after`, counts
those left out (20_memory.md R83). -/
structure LossCounted (input output : List Sample) (before after : BitVec 32) : Prop where
  sublist : output.Sublist input
  counted : after = before + BitVec.ofNat 32 (input.length - output.length)

namespace LossCounted

variable {a b c : List Sample} {x y z : BitVec 32}

theorem refl (a : List Sample) (x : BitVec 32) : LossCounted a a x x :=
  ⟨.refl a, by simp⟩

theorem trans (h : LossCounted a b x y) (h' : LossCounted b c y z) : LossCounted a c x z := by
  have hb := h.sublist.length_le
  have hc := h'.sublist.length_le
  refine ⟨h'.sublist.trans h.sublist, ?_⟩
  rw [h'.counted, h.counted, BitVec.add_assoc, ← BitVec.ofNat_add]
  congr 2; omega

theorem append_left (h : LossCounted a b x y) (l : List Sample) : LossCounted (l ++ a) (l ++ b) x y :=
  ⟨h.sublist.append_left l, by rw [h.counted, List.length_append, List.length_append, Nat.add_sub_add_left]⟩

theorem append_right (h : LossCounted a b x y) (l : List Sample) : LossCounted (a ++ l) (b ++ l) x y :=
  ⟨h.sublist.append_right l, by rw [h.counted, List.length_append, List.length_append, Nat.add_sub_add_right]⟩

/-- Dropping the oldest samples and counting them. -/
theorem drop {d : Nat} (hd : d ≤ a.length) : LossCounted a (a.drop d) x (x + BitVec.ofNat 32 d) :=
  ⟨List.drop_sublist d a, by rw [List.length_drop, Nat.sub_sub_self hd]⟩

end LossCounted

/-- One command: a PUSH drops the oldest samples that have no room, a PULL delivers the oldest, no other moves any. -/
theorem exec_lossCounted {i : Instr} {s t : State} (hc : s.CursorsOk) (h : exec i s = .next t) :
    LossCounted (s.resident ++ i.beats) (s.deliveredBy i ++ t.resident) s.ovf t.ovf := by
  have hother (hpush : ∀ samples, i ≠ .push samples) (hpull : ∀ n, i ≠ .pull n) :
      LossCounted (s.resident ++ []) ([] ++ t.resident) s.ovf t.ovf := by
    obtain ⟨hres, hovf, -, -⟩ := exec_keeps_samples h hpush hpull
    rw [hres, hovf, List.append_nil, List.nil_append]
    exact .refl _ _
  cases i with
  | push samples =>
    obtain ⟨_, rfl⟩ := execPush_next h
    have hacq : (s.acquire .P).CursorsOk := hc
    have hres : ((s.acquire .P).pushAll samples).release.resident =
        (s.resident ++ samples).drop (s.ringSize + samples.length - (s.cfg.n - 1)) :=
      State.resident_pushAll hacq samples
    have hovf : ((s.acquire .P).pushAll samples).release.ovf =
        s.ovf + BitVec.ofNat 32 (s.ringSize + samples.length - (s.cfg.n - 1)) := by
      rw [State.pushAll_eq hacq]; rfl
    rw [hres, hovf]
    exact .drop (by rw [List.length_append, State.length_resident, Instr.beats]; omega)
  | pull n =>
    obtain ⟨_, rfl⟩ := execPull_next h
    have hacq : (s.acquire .C).CursorsOk := hc
    have hres : ((s.acquire .C).pullLoop (s.framesFor n) 0).release.resident =
        s.resident.drop (s.deliveredCount n) := State.resident_pullLoop hacq _ 0
    have hovf : ((s.acquire .C).pullLoop (s.framesFor n) 0).release.ovf = s.ovf := by
      rw [State.pullLoop_eq hacq]; rfl
    simp only [State.deliveredBy, Instr.beats, List.append_nil, hres, List.take_append_drop, hovf]
    exact .refl _ _
  | openReq | close | rdovf | render | inval | encode | rdrow => exact hother nofun nofun

/-- A run that completes begins with a command that completes. -/
theorem runCommands_cons_next {i : Instr} {is : List Instr} {s u : State} (h : runCommands (i :: is) s = .next u) :
    ∃ t, exec i s = .next t ∧ runCommands is t = .next u := by
  rw [runCommands] at h
  split at h
  · exact ⟨_, ‹_›, h⟩
  · cases h
  · cases h

theorem deliveredStream_cons {i : Instr} {is : List Instr} {s t : State} (h : exec i s = .next t) :
    deliveredStream (i :: is) s = s.deliveredBy i ++ deliveredStream is t := by
  rw [deliveredStream, h]

/-- A run of commands, by the first of them and the run of the others. -/
theorem runCommands_lossCounted {commands : List Instr} {s t : State} (hc : s.CursorsOk)
    (h : runCommands commands s = .next t) :
    LossCounted (s.resident ++ pushedBy commands) (deliveredStream commands s ++ t.resident) s.ovf t.ovf := by
  induction commands generalizing s with
  | nil =>
    cases h
    rw [pushedBy, deliveredStream, List.append_nil, List.nil_append]
    exact .refl _ _
  | cons i is ih =>
    obtain ⟨u, hex, hrun⟩ := runCommands_cons_next h
    have hfirst := (exec_lossCounted hc hex).append_right (pushedBy is)
    have hrest := (ih (exec_keeps_cursorsOk hc hex) hrun).append_left (s.deliveredBy i)
    rw [pushedBy, deliveredStream_cons hex]
    simp only [List.append_assoc] at hfirst hrest ⊢
    exact hfirst.trans hrest

/-- Settles O35. -/
theorem deliveredStreamIsASubsequenceOfThePushed : Obligations.DeliveredStreamIsASubsequenceOfThePushed :=
  fun _ _ _ hstart hend h => (runCommands_lossCounted ⟨hstart, hend⟩ h).sublist

/-- Settles O36: what `LossCounted` leaves out is the difference of the two lengths. -/
theorem everySampleIsDeliveredResidentOrCounted : Obligations.EverySampleIsDeliveredResidentOrCounted := by
  intro commands s t hstart hend h
  have hloss := runCommands_lossCounted ⟨hstart, hend⟩ h
  have hle := hloss.sublist.length_le
  refine ⟨_, ?_, hloss.counted⟩
  simp only [List.length_append] at hle ⊢
  omega

/-! PULL beside the other units (O21). -/

/-- An operation that reads and writes nothing PULL does: it passes every part of PULL. -/
structure PassesPull (f : State → State) : Prop where
  astate (s : State) : (f s).astate = s.astate
  framesFor (s : State) (n : BitVec 24) : (f s).framesFor n = s.framesFor n
  cursorsMeet (s : State) : (f s).cursorsMeet = s.cursorsMeet
  acquire (s : State) (l : Lock) : (f s).acquire l = f (s.acquire l)
  deliver (s : State) (i : Nat) : (f s).deliver i = f (s.deliver i)

namespace PassesPull

theorem inval : PassesPull fun s => { s with rf := true } where
  astate _ := rfl
  framesFor _ _ := rfl
  cursorsMeet _ := rfl
  acquire _ _ := rfl
  deliver _ _ := rfl

theorem encodeRows : PassesPull State.encodeRows where
  astate _ := rfl
  framesFor _ _ := rfl
  cursorsMeet _ := rfl
  acquire _ _ := rfl
  deliver _ _ := rfl

theorem rdrow (row : BitVec 3) : PassesPull fun s => s.respond (rowResponse (s.kr.get row)) where
  astate _ := rfl
  framesFor _ _ := rfl
  cursorsMeet _ := rfl
  acquire _ _ := rfl
  deliver _ _ := rfl

theorem render : PassesPull fun s => s.paint.rebaseline.clearRefresh where
  astate _ := rfl
  framesFor _ _ := rfl
  cursorsMeet _ := rfl
  acquire _ _ := rfl
  deliver _ _ := rfl

variable {f : State → State}

theorem pullLoop (hf : PassesPull f) (s : State) (k i : Nat) : (f s).pullLoop k i = f (s.pullLoop k i) := by
  induction k generalizing s i with
  | zero => rfl
  | succ k ih =>
    simp only [State.pullLoop, hf.cursorsMeet, hf.deliver, ih]
    split <;> rfl

/-- The PULL after such an operation is the operation after the PULL. -/
theorem commutes (hf : PassesPull f) {s t : State} {n : BitVec 24} (h : exec (.pull n) s = .next t) :
    exec (.pull n) (f s) = .next (f t) := by
  obtain ⟨ho, rfl⟩ := execPull_next h
  rw [exec_pull, execPull_of_opened ((hf.astate s).trans ho), hf.framesFor, hf.acquire, hf.pullLoop]
  exact congrArg _ (hf.acquire _ .free)

end PassesPull

/-- Settles O21: PULL leaves what the other command's precondition reads, and the command passes PULL. -/
theorem pullCommutesWithTheOtherUnits : Obligations.PullCommutesWithTheOtherUnits := by
  intro i n s t u hi hpull hother
  obtain ⟨_, _, _, _, _, _, _, _, _, _, _, _, _, _, hfbrdy, hactive, hpaused, _⟩ :=
    eachCellIsWrittenOnlyByItsCommands _ s t hpull
  obtain rfl | rfl | rfl | ⟨row, rfl⟩ := hi
  case inl =>
    obtain ⟨hb, rfl⟩ := execRender_next hother
    exact ⟨_, execRender_of_fbrdy (hfbrdy ▸ hb), PassesPull.render.commutes hpull⟩
  case inr.inl =>
    cases hother
    exact ⟨_, rfl, PassesPull.inval.commutes hpull⟩
  case inr.inr.inl =>
    have hgate : t.gateOpen = s.gateOpen := by rw [State.gateOpen, hactive, hpaused, State.gateOpen]
    obtain ⟨hg, hk, rfl⟩ | ⟨hg, rfl⟩ := execEncode_next hother
    · rw [exec_keeps_cfg hpull] at hk
      exact ⟨_, execEncode_of_gateOpen (hgate ▸ hg) hk, PassesPull.encodeRows.commutes hpull⟩
    · exact ⟨_, execEncode_of_gateClosed (hgate ▸ hg), hpull⟩
  case inr.inr.inr =>
    cases hother
    exact ⟨_, rfl, (PassesPull.rdrow row).commutes hpull⟩

/-! The bytes of a PULL (O30, O32). -/

/-- Entries of equal length laid one after the other: entry `j` begins at index `j * c`. -/
theorem getElem?_flatMap_of_length {α β : Type} {f : α → List β} {c b : Nat} (hf : ∀ x, (f x).length = c) (hb : b < c)
    {l : List α} {j : Nat} {x : α} (hx : l[j]? = some x) : (l.flatMap f)[j * c + b]? = (f x)[b]? := by
  induction l generalizing j with
  | nil => cases hx
  | cons y l ih =>
    rw [List.flatMap_cons]
    cases j with
    | zero =>
      obtain rfl : y = x := by simpa using hx
      rw [Nat.zero_mul, Nat.zero_add, List.getElem?_append_left (by rw [hf]; exact hb)]
    | succ j =>
      rw [Nat.succ_mul, List.getElem?_append_right (by rw [hf]; omega), hf,
        show j * c + c + b - c = j * c + b by omega]
      exact ih (by simpa using hx)

/-- The bytes a PULL writes, frame by frame (40_audio_ring.md R143, R144). -/
def State.pulledBytes (s : State) (n : BitVec 24) : List Byte :=
  (s.samplesFrom (s.deliveredCount n)).flatMap (frameBytes s.och s.ofmt)

theorem State.length_pulledBytes (s : State) (n : BitVec 24) :
    (s.pulledBytes n).length = s.deliveredCount n * s.frameSize := by
  simp [State.pulledBytes, List.length_flatMap, length_frameBytes, State.samplesFrom, Function.comp_def]

/-- Byte `b` of output frame `j` is that byte of the `j`-th oldest sample's frame. -/
theorem State.getElem?_pulledBytes {s : State} {n : BitVec 24} {j b : Nat} (hj : j < s.deliveredCount n)
    (hb : b < s.frameSize) :
    (s.pulledBytes n)[j * s.frameSize + b]? =
      (frameBytes s.och s.ofmt (s.ringAt ((s.startCur + j) % s.cfg.n)))[b]? :=
  getElem?_flatMap_of_length (length_frameBytes s) hb (by simp [State.samplesFrom, hj])

/-- A PULL in A_OPEN, in closed form: the bytes go to the front of OUTBUF and `start` moves past their samples. -/
theorem exec_pull_eq {s : State} (hc : s.CursorsOk) (ho : s.astate = .opened) (n : BitVec 24) :
    exec (.pull n) s = .next { s with
      startCur := (s.startCur + s.deliveredCount n) % s.cfg.n, outbuf := s.outbuf.setRun 0 (s.pulledBytes n)
      lock := .free } := by
  have hacq : (s.acquire .C).CursorsOk := hc
  rw [exec_pull, execPull_of_opened ho, State.pullLoop_eq hacq, Nat.zero_mul]
  rfl

/-- What lies past the bytes of a PULL stays. -/
theorem State.get?_setRun_pulledBytes_of_le (s : State) (n : BitVec 24) {a : Nat}
    (ha : s.deliveredCount n * s.frameSize ≤ a) :
    Memory.get? (s.outbuf.setRun 0 (s.pulledBytes n)) a = Memory.get? s.outbuf a := by
  rw [Memory.get?_setRun, if_neg (by rw [State.length_pulledBytes]; omega)]

/-- Byte `b` of output frame `j` after a PULL. -/
theorem State.get?_setRun_pulledBytes {s : State} {n : BitVec 24} {j b : Nat} (hj : j < s.deliveredCount n)
    (hb : b < s.frameSize) :
    Memory.get? (s.outbuf.setRun 0 (s.pulledBytes n)) (j * s.frameSize + b) =
      (frameBytes s.och s.ofmt (s.ringAt ((s.startCur + j) % s.cfg.n)))[b]? := by
  have hfit : (j + 1) * s.frameSize ≤ s.deliveredCount n * s.frameSize := Nat.mul_le_mul_right _ hj
  rw [Nat.succ_mul] at hfit
  rw [Memory.get?_setRun, if_pos (by rw [State.length_pulledBytes]; omega), Nat.sub_zero]
  exact State.getElem?_pulledBytes hj hb

/-- Settles O30: a mono 16-bit frame is the two bytes of its sample. -/
theorem pullToMono16 : Obligations.PullToMono16 := by
  refine ⟨fun s n hs => if_pos hs, fun s n hstart hend ho hoch hofmt => ?_⟩
  have hsize : s.frameSize = 2 := by rw [State.frameSize, hoch, hofmt]; rfl
  have hcount : s.deliveredCount n = min (n.toNat / 2) s.ringSize := by rw [← hsize]; rfl
  rw [← hcount]
  refine ⟨_, exec_pull_eq ⟨hstart, hend⟩ ho n, fun j hj => ?_, fun a ha => ?_⟩
  · have hbyte (b : Nat) (hb : b < 2) := State.get?_setRun_pulledBytes hj (hsize.symm ▸ hb)
    simp only [hsize, hoch, hofmt, Nat.mul_comm j 2] at hbyte
    exact ⟨hbyte 0 (by decide), hbyte 1 (by decide)⟩
  · exact s.get?_setRun_pulledBytes_of_le n (by rw [hsize]; omega)

/-- The frames a PULL delivers fit into `byteLength` (20_memory.md R66). -/
theorem State.deliveredCount_mul_frameSize_le (s : State) (n : BitVec 24) :
    s.deliveredCount n * s.frameSize ≤ n.toNat :=
  (Nat.mul_le_mul_right _ (min_le_left _ _)).trans (Nat.div_mul_le_self n.toNat s.frameSize)

/-- 16-bit output has an even number of bytes in a frame. -/
theorem State.two_dvd_frameSize {s : State} (h : s.ofmt = .unsigned16) : 2 ∣ s.frameSize :=
  ⟨s.och.toNat, by rw [State.frameSize, h]; exact Nat.mul_comm _ _⟩

/-- Settles O32: whole frames are written, and they end at or before `byteLength`. -/
theorem pullStaysInsideTheDevicesBuffer : Obligations.PullStaysInsideTheDevicesBuffer := by
  intro s t n hstart hend h
  obtain ⟨ho, -⟩ := execPull_next h
  rw [exec_pull_eq ⟨hstart, hend⟩ ho n] at h
  cases h
  have hfit := s.deliveredCount_mul_frameSize_le n
  refine ⟨fun a ha => s.get?_setRun_pulledBytes_of_le n (hfit.trans ha), fun hofmt hodd => ?_⟩
  have heven : 2 ∣ s.deliveredCount n * s.frameSize := (State.two_dvd_frameSize hofmt).mul_left _
  exact s.get?_setRun_pulledBytes_of_le n (by omega)

/-! The visible addresses (O41). -/

/-- The colour entry of a visible pixel is an entry of CPL (20_memory.md R70). -/
theorem Config.colourAddr_lt {c : Config} (hc : c.wf) {x y : Nat} (hx : x < c.visW) (hy : y < c.visH) :
    c.colourAddr x y < Space.size c .cpl := by
  obtain ⟨_, _, ⟨_, _, _, hwide⟩, ⟨_, htall⟩, _⟩ := hc
  have hrow : (y + c.yOfs + 1) * c.fullW ≤ c.fullH * c.fullW := Nat.mul_le_mul_right _ (by omega)
  rw [Nat.succ_mul] at hrow
  simp only [Config.colourAddr, Space.size, Nat.mul_comm c.fullW]
  omega

/-- Settles O41: the formulas are the model's, and each address is below the size of its space. -/
theorem visibleAddressesAreInRange : Obligations.VisibleAddressesAreInRange :=
  fun _ _ _ _ hc hy hcx hk => ⟨rfl, Config.cellAddr_lt hc hy hcx, rfl, Config.colourAddr_lt hc (by omega) hy, rfl,
    Config.pixelAddr_lt hy hcx hk⟩

/-! A command that is legal completes, on the port it is issued on. -/

/-- A command whose precondition holds completes (60_exceptions.md R245). -/
theorem exec_of_legal {s : State} {i : Instr} (h : s.Legal i) : ∃ t, exec i s = .next t := by
  cases i with
  | openReq rate ch fmt => obtain ⟨hi, hch⟩ := h; exact ⟨_, execOpen_of_idle hi hch⟩
  | push samples => exact ⟨_, execPush_of_opened h⟩
  | pull n => exact ⟨_, execPull_of_opened h⟩
  | close => exact ⟨_, execClose_of_opened h⟩
  | rdovf => exact ⟨_, rfl⟩
  | render => exact ⟨_, execRender_of_fbrdy h⟩
  | inval => exact ⟨_, rfl⟩
  | encode =>
    cases hg : s.gateOpen with
    | true => exact ⟨_, execEncode_of_gateOpen hg (h (by simpa [State.gateOpen] using hg))⟩
    | false => exact ⟨_, execEncode_of_gateClosed hg⟩
  | rdrow row => exact ⟨_, rfl⟩

/-- No precondition reads a port or the schedule. -/
theorem State.Legal.with_ports {s : State} {i : Instr} (h : s.Legal i) (turns : List Turn)
    (itemsP : List (PortItem EnvAction)) (itemsC : List (PortItem DevAction)) :
    State.Legal { s with turns := turns, portP := itemsP, portC := itemsC } i := by
  cases i <;> exact h

theorem decodeFields_ok_op {op : Op} {w : Word} {h : Head} (hd : decodeFields op w = .ok h) (samples : List Sample) :
    (h.finish samples).op = op := by
  cases op <;> simp only [decodeFields, decodeZ, decodeO, decodeR] at hd
  case openReq => split at hd <;> cases hd; rfl
  case push => cases hd; rfl
  case pull => cases hd; rfl
  all_goals split at hd <;> cases hd; rfl

/-- What a port's decoder accepts is a command of that port (30_encoding.md R102). -/
theorem decode_ok_port {Act : Type} {p : Port} {items rest : List (PortItem Act)} {i : Instr}
    (h : decode p items = .ok (i, rest)) : i.port = p := by
  obtain ⟨w, later, rfl⟩ := decode_ok_word h
  simp only [decode] at h
  split at h
  · cases h
  rename_i hw
  split at h
  · cases h
  cases h
  unfold decodeWord at hw
  split at hw
  · cases hw
  split at hw
  · rename_i hport
    rw [Instr.port, decodeFields_ok_op hw]
    exact hport
  · cases hw

/-- Port P accepts no PULL (30_encoding.md R102). -/
theorem decode_P_ne_pull {Act : Type} {items rest : List (PortItem Act)} {i : Instr}
    (h : decode .P items = .ok (i, rest)) (n : BitVec 24) : i ≠ .pull n := by
  rintro rfl
  cases decode_ok_port h

/-! Abandonment (O59): what RESET meets on each port, then what it leaves. -/

@[simp] theorem State.blur_portP (s : State) (i : Instr) : (s.blur i).portP = s.portP := by cases i <;> rfl
@[simp] theorem State.blur_portC (s : State) (i : Instr) : (s.blur i).portC = s.portC := by cases i <;> rfl
@[simp] theorem State.blur_responses (s : State) (i : Instr) : (s.blur i).responses = s.responses := by cases i <;> rfl
@[simp] theorem State.blur_requests (s : State) (i : Instr) : (s.blur i).requests = s.requests := by cases i <;> rfl
@[simp] theorem State.blur_mark (s : State) (i : Instr) : (s.blur i).mark = s.mark := by cases i <;> rfl
@[simp] theorem State.blur_resetIn (s : State) (i : Instr) : (s.blur i).resetIn = s.resetIn := by cases i <;> rfl
@[simp] theorem State.blur_lock (s : State) (i : Instr) : (s.blur i).lock = s.lock := by cases i <;> rfl
@[simp] theorem State.blur_astate (s : State) (i : Instr) : (s.blur i).astate = s.astate := by cases i <;> rfl

theorem State.blur_outbuf {s : State} {i : Instr} (hi : ∀ n, i ≠ .pull n) : (s.blur i).outbuf = s.outbuf := by
  cases i with
  | pull n => exact absurd rfl (hi n)
  | openReq | push | close | rdovf | render | inval | encode | rdrow => rfl

theorem State.blur_pixout {s : State} {i : Instr} (hi : i ≠ .render) : (s.blur i).pixout = s.pixout := by
  cases i with
  | render => exact absurd rfl hi
  | openReq | push | pull | close | rdovf | inval | encode | rdrow => rfl

/-- Abandoning a command, legal or not, leaves the ports as they are once its items are taken. -/
theorem State.interrupt_ports (s : State) (l : Lock) (i : Instr) :
    (s.interrupt l i).portP = s.portP ∧ (s.interrupt l i).portC = s.portC := by
  unfold State.interrupt
  simp only
  split
  · rw [State.blur_portP, State.blur_portC]; split <;> exact ⟨rfl, rfl⟩
  · rw [State.blur_portP, State.blur_portC]; split <;> exact ⟨rfl, rfl⟩
  · exact ⟨rfl, rfl⟩

/-- A legal command abandoned on port P: nothing is answered or asked, and what it may have drawn is unspecified. -/
structure State.AbandonedOnP (s : State) (i : Instr) (t : State) : Prop where
  portC : t.portC = s.portC
  responses : t.responses = s.responses
  requests : t.requests = s.requests
  mark : t.mark = s.mark
  resetIn : t.resetIn = s.resetIn
  astate : t.astate = s.astate
  lock : t.lock = if takesLock i then .P else s.lock
  outbuf : t.outbuf = s.outbuf
  pixout_kept : i ≠ .render → t.pixout = s.pixout
  pixout_lost : i = .render → t.pixout = []

/-- A command under way on port P: its items are taken off, and it is abandoned. -/
theorem State.cutP_of_decode {s : State} {i : Instr} {rest : List (PortItem EnvAction)} (hr : s.resetIn = false)
    (hm : s.mark = none) (hl : s.lock = .free) (hd : decode .P s.portP = .ok (i, rest)) :
    s.cutP = State.interrupt { s with portP := rest } .P i := by
  rw [State.cutP, State.fetchP_of_decode hr hm hd (State.mustWait_of_free hl i)]

/-- A command under way on port C: its items are taken off, and it is abandoned. -/
theorem State.cutC_of_decode {s : State} {i : Instr} {rest : List (PortItem DevAction)} (hr : s.resetIn = false)
    (hm : s.mark = none) (hl : s.lock = .free) (hd : decode .C s.portC = .ok (i, rest)) :
    s.cutC = State.interrupt { s with portC := rest } .C i := by
  rw [State.cutC, State.fetchC_of_decode hr hm hd (State.mustWait_of_free hl i)]

/-- A command that waits for the lock on port C is not under way. -/
theorem State.cutC_of_wait {s : State} {i : Instr} {rest : List (PortItem DevAction)} (hm : s.mark = none)
    (hd : decode .C s.portC = .ok (i, rest)) (hw : s.mustWait i = true) : s.cutC = s := by
  rw [State.cutC, State.fetchC_of_wait hm hd hw]

/-- A legal command under way on port P is abandoned. -/
theorem State.cutP_abandons {s : State} {i : Instr} {rest : List (PortItem EnvAction)} (hr : s.resetIn = false)
    (hm : s.mark = none) (hl : s.lock = .free) (hd : decode .P s.portP = .ok (i, rest)) (hi : s.Legal i) :
    s.AbandonedOnP i s.cutP := by
  obtain ⟨t, hex⟩ := exec_of_legal (hi.with_ports s.turns rest s.portC)
  have hpull := decode_P_ne_pull hd
  rw [State.cutP_of_decode hr hm hl hd, State.interrupt_of_next hex]
  constructor
  case lock => rw [State.blur_lock]; split <;> rfl
  case outbuf => rw [State.blur_outbuf hpull]; split <;> rfl
  case pixout_kept => intro hrender; rw [State.blur_pixout hrender]; split <;> rfl
  case pixout_lost => rintro rfl; rfl
  all_goals simp only [State.blur_portC, State.blur_responses, State.blur_requests, State.blur_mark,
    State.blur_resetIn, State.blur_astate]; split <;> rfl

/-- A PULL in A_OPEN under way on port C leaves OUTBUF unspecified, and else takes its items and the lock alone. -/
theorem State.cutC_of_pull {s : State} {n : BitVec 24} {rest : List (PortItem DevAction)} (hr : s.resetIn = false)
    (hm : s.mark = none) (hl : s.lock = .free) (hd : decode .C s.portC = .ok (.pull n, rest))
    (ho : s.astate = .opened) : s.cutC = { s with portC := rest, lock := .C, outbuf := [] } := by
  rw [State.cutC_of_decode hr hm hl hd]
  exact State.interrupt_of_next (execPull_of_opened ho)

/-- A PUSH that awaits beats is gone (70_reset_and_hazards.md R280); without one nothing is dropped. -/
theorem State.dropAwaiting_cases {s : State} (hr : s.resetIn = false) :
    ∃ items, s.dropAwaiting = { s with portP := items } ∧
      (decode .P s.portP = .error .incomplete → items = []) ∧
      (decode .P s.portP ≠ .error .incomplete → items = s.portP) := by
  rw [State.dropAwaiting, if_neg (by simp [hr])]
  split
  · rename_i hd; exact ⟨_, rfl, fun _ => rfl, fun h => absurd hd h⟩
  · rename_i hwhy hd; exact ⟨_, rfl, fun h => absurd (Except.error.inj (hd.symm.trans h)) hwhy, fun _ => rfl⟩
  · rename_i hd; exact ⟨_, rfl, fun h => (nomatch hd.symm.trans h), fun _ => rfl⟩

/-- RESET that rises leaves the block reset and asserted, and the environment's cells as they are, whatever is under
way. -/
theorem State.cut_resets (s : State) (turns : List Turn) (onP onC : Bool) :
    (State.cut { s with turns := turns } onP onC).resetIn = true ∧
    (State.cut { s with turns := turns } onP onC).turns = turns ∧
    (State.cut { s with turns := turns } onP onC).BlockIsReset ∧
    s.SameSurroundings (State.cut { s with turns := turns } onP onC) := by
  obtain ⟨_, _, _, _, _, _, _, _, _, h⟩ := State.cut_frame { s with turns := turns } onP onC
  rw [h]
  exact ⟨rfl, rfl, ⟨rfl, rfl, rfl, rfl, rfl, rfl, Rows.get_reset, rfl, rfl, rfl⟩,
    ⟨rfl, rfl, rfl, rfl, rfl, rfl, rfl, rfl, rfl, rfl⟩⟩

theorem step_of_rstDuring {s : State} {turns : List Turn} {onP onC : Bool} (h : s.turns = .rstDuring onP onC :: turns) :
    step s = .next (State.cut { s with turns := turns } onP onC) :=
  step_of_quiet (by simp only [State.fetch, h])

/-- A PUSH or an RDOVF on port P, and no other command there, takes the lock (20_memory.md R81). -/
theorem takesLock_iff_of_ne_pull {i : Instr} (hi : ∀ n, i ≠ .pull n) :
    takesLock i = true ↔ (∃ samples, i = .push samples) ∨ i = .rdovf := by
  cases i with
  | pull n => exact absurd rfl (hi n)
  | push | openReq | close | rdovf | render | inval | encode | rdrow => simp [takesLock]

/-- Settles O59: in each of the three cases `State.cut_resets` gives the block, and what was met on the ports gives the
rest. -/
theorem resetDuringAnOperationAbandonsIt : Obligations.ResetDuringAnOperationAbandonsIt := by
  refine ⟨?onP, ?onC, ?onBoth⟩
  case onP =>
    intro s turns i rest hturn hr hm hl hd
    set s₀ : State := { s with turns := turns }
    obtain ⟨hreset, hturns, hblock, hsame⟩ := s.cut_resets turns true false
    obtain ⟨hportP, hportC⟩ := State.interrupt_ports { s₀ with portP := rest } .P i
    rw [← State.cutP_of_decode (s := s₀) hr hm hl hd] at hportP hportC
    refine ⟨_, step_of_rstDuring hturn, hreset, hturns, hportP, hportC, hblock, hsame, fun hi => ?_⟩
    have hgone := State.cutP_abandons (s := s₀) hr hm hl hd (hi.with_ports turns s.portP s.portC)
    exact ⟨hgone.responses, hgone.requests, hgone.outbuf, hgone.pixout_kept, hgone.pixout_lost⟩
  case onC =>
    intro s turns n rest hturn hr hm hl hd
    obtain ⟨hreset, hturns, hblock, hsame⟩ := s.cut_resets turns false true
    obtain ⟨items, hdrop, hgone, hkept⟩ := State.dropAwaiting_cases (s := { s with turns := turns }) hr
    have hcut : State.cut { s with turns := turns } false true =
        (State.cutC { s with turns := turns, portP := items }).assertReset := by rw [← hdrop]; rfl
    have hcutC := State.cutC_of_decode (s := { s with turns := turns, portP := items }) hr hm hl hd
    obtain ⟨hportP, hportC⟩ :=
      State.interrupt_ports { s with turns := turns, portP := items, portC := rest } .C (.pull n)
    rw [hcut] at hreset hturns hblock hsame
    refine ⟨_, (step_of_rstDuring hturn).trans (congrArg _ hcut), hreset, hturns, ?_, ?_, ?_, hblock, hsame, ?_⟩
    · rw [State.assertReset_portC, hcutC]; exact hportC
    · intro hinc; rw [State.assertReset_portP, hcutC]; exact hportP.trans (hgone hinc)
    · intro hinc; rw [State.assertReset_portP, hcutC]; exact hportP.trans (hkept hinc)
    · intro ho
      rw [State.cutC_of_pull (s := { s with turns := turns, portP := items }) hr hm hl hd ho]
      exact ⟨rfl, rfl, rfl, rfl⟩
  case onBoth =>
    intro s turns i n rest rest' hturn hr hm hl hdP hdC hi ho
    set s₀ : State := { s with turns := turns }
    obtain ⟨hreset, hturns, hblock, hsame⟩ := s.cut_resets turns true true
    obtain ⟨hportP, -⟩ := State.interrupt_ports { s₀ with portP := rest } .P i
    rw [← State.cutP_of_decode (s := s₀) hr hm hl hdP] at hportP
    have hgone := State.cutP_abandons (s := s₀) hr hm hl hdP (hi.with_ports turns s.portP s.portC)
    have hcut : s₀.cut true true = s₀.cutP.cutC.assertReset := rfl
    have hdC' : decode .C s₀.cutP.portC = .ok (.pull n, rest') := by rw [hgone.portC]; exact hdC
    rw [← takesLock_iff_of_ne_pull (decode_P_ne_pull hdP)]
    rw [hcut] at hreset hturns hblock hsame
    refine ⟨_, (step_of_rstDuring hturn).trans (congrArg _ hcut), hreset, hturns, ?_⟩
    cases hlock : takesLock i with
    | true =>
      have hheld : s₀.cutP.lock ≠ .free := by rw [hgone.lock, hlock]; exact nofun
      rw [State.cutC_of_wait (hgone.mark.trans hm) hdC' (State.mustWait_of_held rfl hheld)] at hblock hsame ⊢
      exact ⟨hportP, hblock, hsame, hgone.responses, hgone.requests, hgone.pixout_kept, hgone.pixout_lost,
        fun _ => ⟨hgone.portC, hgone.outbuf⟩, fun h => absurd rfl h⟩
    | false =>
      have hfree : s₀.cutP.lock = .free := by rw [hgone.lock, hlock]; exact hl
      rw [State.cutC_of_pull (hgone.resetIn.trans hr) (hgone.mark.trans hm) hfree hdC' (hgone.astate.trans ho)]
        at hblock hsame ⊢
      exact ⟨hportP, hblock, hsame, hgone.responses, hgone.requests, hgone.pixout_kept, hgone.pixout_lost,
        fun h => (nomatch h), fun _ => ⟨rfl, rfl⟩⟩

/-! Fairness (O60): a turn of one agent leaves the other's port as it is, so a command is still at the front when its
agent's turn comes. -/

/-- The block takes the next command it meets: RESET is released, no mark stands and the lock is FREE. -/
structure State.Accepting (s : State) : Prop where
  resetIn : s.resetIn = false
  lock : s.lock = .free
  mark : s.mark = none

/-- A command that completes leaves the lock FREE if it finds it so (20_memory.md R81). -/
theorem exec_keeps_lock_free {i : Instr} {s t : State} (hs : s.lock = .free) (h : exec i s = .next t) :
    t.lock = .free := by
  cases i with
  | push samples => obtain ⟨_, rfl⟩ := execPush_next h; rfl
  | pull n => obtain ⟨_, rfl⟩ := execPull_next h; rfl
  | openReq | close | rdovf | render | inval | encode | rdrow =>
    obtain ⟨_, hread, _⟩ := eachCellIsWrittenOnlyByItsCommands _ s t h
    obtain ⟨_, hlock⟩ := hread nofun nofun
    exact hlock.trans hs

/-- An accepting block that completes a command is accepting again. -/
theorem exec_keeps_accepting {i : Instr} {s t : State} (hs : s.Accepting) (h : exec i s = .next t) : t.Accepting := by
  obtain ⟨_, _, _, hreset, _⟩ := exec_keeps_interface h
  obtain ⟨_, _, _, _, _, _, _, _, _, _, _, _, _, _, _, _, _, hmark⟩ := eachCellIsWrittenOnlyByItsCommands i s t h
  exact ⟨hreset.trans hs.resetIn, exec_keeps_lock_free hs.lock h, hmark.trans hs.mark⟩

/-- An action of agent P writes no cell of the interface but its own memories and inputs. -/
theorem State.envAct_keeps_accepting {s t : State} {a : EnvAction} (hs : s.Accepting) (h : s.envAct a = .ok t) :
    t.Accepting ∧ t.portC = s.portC := by
  cases a with
  | cur | cpl | key | pix => rw [State.checked_ok h]; exact ⟨⟨hs.resetIn, hs.lock, hs.mark⟩, rfl⟩
  | input name b => cases h; cases name <;> exact ⟨⟨hs.resetIn, hs.lock, hs.mark⟩, rfl⟩

/-- An action of the device writes OUTBUF alone. -/
theorem State.devAct_keeps_accepting {s t : State} {a : DevAction} (hs : s.Accepting) (h : s.devAct a = .ok t) :
    t.Accepting ∧ t.portP = s.portP := by
  cases a with
  | out => rw [State.checked_ok h]; exact ⟨⟨hs.resetIn, hs.lock, hs.mark⟩, rfl⟩

/-- A step that leaves no mark ends in the state its turn hands on, or completes a command there. -/
theorem step_next_unmarked {s t : State} (h : step s = .next t) (hm : t.mark = none) :
    ∃ u, s.fetch.state? = some u ∧ (u = t ∨ ∃ i, exec i u = .next t) := by
  obtain hf | ⟨i, u, hf, he | ⟨r, _, rfl⟩⟩ | ⟨r, u, _, rfl⟩ := step_next h
  · exact ⟨t, by rw [hf]; rfl, .inl rfl⟩
  · exact ⟨u, by rw [hf]; rfl, .inr ⟨i, he⟩⟩
  · cases hm
  · cases hm

theorem State.fetchP_keeps_accepting {s t : State} (hs : s.Accepting) (h : s.fetchP.state? = some t) :
    t.Accepting ∧ t.portC = s.portC := by
  obtain ⟨hreset, hlock, hmark⟩ := hs
  obtain hf | ⟨_, rest, _, hf⟩ | ⟨_, _, hf⟩ | ⟨_, _, _, _, _, _, _, hf⟩ | ⟨_, _, _, _, _, _, hf⟩ := s.fetchP_cases
  all_goals rw [hf] at h
  · cases h; exact ⟨⟨hreset, hlock, hmark⟩, rfl⟩
  · have hact := Fetched.state?_ofAction h
    exact State.envAct_keeps_accepting (s := { s with portP := rest }) ⟨hreset, hlock, hmark⟩ hact
  · cases h
  · cases h; exact ⟨⟨hreset, hlock, hmark⟩, rfl⟩
  · cases h; exact ⟨⟨hreset, hlock, hmark⟩, rfl⟩

theorem State.fetchC_keeps_accepting {s t : State} (hs : s.Accepting) (h : s.fetchC.state? = some t) :
    t.Accepting ∧ t.portP = s.portP := by
  obtain ⟨hreset, hlock, hmark⟩ := hs
  obtain hf | ⟨_, rest, _, hf⟩ | ⟨_, _, hf⟩ | ⟨_, _, _, _, _, _, _, hf⟩ | ⟨_, _, _, _, _, _, hf⟩ := s.fetchC_cases
  all_goals rw [hf] at h
  · cases h; exact ⟨⟨hreset, hlock, hmark⟩, rfl⟩
  · have hact := Fetched.state?_ofAction h
    exact State.devAct_keeps_accepting (s := { s with portC := rest }) ⟨hreset, hlock, hmark⟩ hact
  · cases h
  · cases h; exact ⟨⟨hreset, hlock, hmark⟩, rfl⟩
  · cases h; exact ⟨⟨hreset, hlock, hmark⟩, rfl⟩

/-- A turn of agent P that leaves no mark keeps the block accepting and port C as it is. -/
theorem State.stepOf_P_keeps_accepting {s t : State} (hs : s.Accepting) (h : s.stepOf .P = .next t)
    (hm : t.mark = none) : t.Accepting ∧ t.portC = s.portC := by
  obtain ⟨u, hf, hu⟩ := step_next_unmarked h hm
  obtain ⟨hacc, hport⟩ :=
    State.fetchP_keeps_accepting (s := { s with turns := [] }) ⟨hs.resetIn, hs.lock, hs.mark⟩ hf
  obtain rfl | ⟨i, hex⟩ := hu
  · exact ⟨hacc, hport⟩
  · obtain ⟨_, hkept, _⟩ := exec_keeps_interface hex
    exact ⟨exec_keeps_accepting hacc hex, hkept.trans hport⟩

/-- A turn of agent C that leaves no mark keeps the block accepting and port P as it is. -/
theorem State.stepOf_C_keeps_accepting {s t : State} (hs : s.Accepting) (h : s.stepOf .C = .next t)
    (hm : t.mark = none) : t.Accepting ∧ t.portP = s.portP := by
  obtain ⟨u, hf, hu⟩ := step_next_unmarked h hm
  obtain ⟨hacc, hport⟩ :=
    State.fetchC_keeps_accepting (s := { s with turns := [] }) ⟨hs.resetIn, hs.lock, hs.mark⟩ hf
  obtain rfl | ⟨i, hex⟩ := hu
  · exact ⟨hacc, hport⟩
  · obtain ⟨hkept, _⟩ := exec_keeps_interface hex
    exact ⟨exec_keeps_accepting hacc hex, hkept.trans hport⟩

/-- A command whose outcome, once settled, leaves no mark has completed. -/
theorem exec_of_settle {i : Instr} {u t : State} (h : u.settle (exec i u) = .next t) (hm : t.mark = none) :
    exec i u = .next t := by
  cases he : exec i u with
  | next v => rw [he] at h; exact h
  | fault r => rw [he] at h; cases h
  | refused r => rw [he] at h; cases h; cases hm

/-- On agent P's turn an accepting block performs the command at the front of port P. -/
theorem State.Accepting.performs_P {s t : State} {i : Instr} {rest : List (PortItem EnvAction)} (hs : s.Accepting)
    (hd : decode .P s.portP = .ok (i, rest)) (h : s.stepOf .P = .next t) (hm : t.mark = none) :
    exec i { s with turns := [], portP := rest } = .next t := by
  have hf := State.fetchP_of_decode (s := { s with turns := [] }) hs.resetIn hs.mark hd
    (State.mustWait_of_free hs.lock i)
  have hstep := step_of_command (s := { s with turns := [.P] }) ((State.fetch_of_turnP rfl).trans hf)
  exact exec_of_settle (hstep.symm.trans h) hm

/-- On agent C's turn an accepting block performs the command at the front of port C. -/
theorem State.Accepting.performs_C {s t : State} {i : Instr} {rest : List (PortItem DevAction)} (hs : s.Accepting)
    (hd : decode .C s.portC = .ok (i, rest)) (h : s.stepOf .C = .next t) (hm : t.mark = none) :
    exec i { s with turns := [], portC := rest } = .next t := by
  have hf := State.fetchC_of_decode (s := { s with turns := [] }) hs.resetIn hs.mark hd
    (State.mustWait_of_free hs.lock i)
  have hstep := step_of_command (s := { s with turns := [.C] }) ((State.fetch_of_turnC rfl).trans hf)
  exact exec_of_settle (hstep.symm.trans h) hm

/-- One step more of a run that nothing stops is the step of the agent the schedule names. -/
theorem runSchedule_succ {schedule : Nat → Turn} {k : Nat} {s t : State} (h : runSchedule schedule k s = .next t) :
    runSchedule schedule (k + 1) s = t.stepOf (schedule k) := by
  rw [runSchedule, h]

/-- What every turn before the first one of an agent keeps still stands when that turn comes. -/
theorem exists_first_turn {schedule : Nat → Turn} {a : Turn} {s : State} {Q : State → Prop}
    (hfair : ∀ j, ∃ k, j ≤ k ∧ schedule k = a) (hrun : ∀ k, ∃ t, runSchedule schedule k s = .next t ∧ t.mark = none)
    (hs : Q s)
    (hkeep : ∀ k t u, schedule k ≠ a → Q t → t.stepOf (schedule k) = .next u → u.mark = none → Q u) :
    ∃ k t u, runSchedule schedule k s = .next t ∧ Q t ∧ t.stepOf a = .next u ∧ u.mark = none ∧
      runSchedule schedule (k + 1) s = .next u := by
  have hex : ∃ k, schedule k = a := (hfair 0).imp fun _ h => h.2
  have hbefore (k : Nat) (hk : k ≤ Nat.find hex) : ∃ t, runSchedule schedule k s = .next t ∧ Q t := by
    induction k with
    | zero => exact ⟨s, rfl, hs⟩
    | succ k ih =>
      obtain ⟨t, ht, hQ⟩ := ih (by omega)
      obtain ⟨u, hu, hm⟩ := hrun (k + 1)
      exact ⟨u, hu, hkeep k t u (Nat.find_min hex hk) hQ ((runSchedule_succ ht).symm.trans hu) hm⟩
  obtain ⟨t, ht, hQ⟩ := hbefore _ le_rfl
  obtain ⟨u, hu, hm⟩ := hrun (Nat.find hex + 1)
  refine ⟨_, t, u, ht, hQ, ?_, hm, hu⟩
  rw [← Nat.find_spec hex, ← runSchedule_succ ht, hu]

/-- Settles O60: until its agent's first turn the command stays at the front of an accepting block's port, and on that
turn it is performed. -/
theorem fairScheduleServesEveryRequest : Obligations.FairScheduleServesEveryRequest := by
  intro schedule s honly hfair hreset hlock hrun
  obtain ⟨hfairP, hfairC⟩ := hfair
  have hs : s.Accepting := by
    obtain ⟨t, ht, hm⟩ := hrun 0
    cases ht
    exact ⟨hreset, hlock, hm⟩
  constructor
  case left =>
    intro i rest hd
    obtain ⟨k, t, u, ht, ⟨hacc, hport⟩, hstep, hm, hu⟩ := exists_first_turn
      (Q := fun t => t.Accepting ∧ t.portP = s.portP) hfairP hrun ⟨hs, rfl⟩ (by
        rintro k t u hne ⟨hacc, hport⟩ hstep hm
        rw [(honly k).resolve_left hne] at hstep
        exact (State.stepOf_C_keeps_accepting hacc hstep hm).imp_right fun hkept => hkept.trans hport)
    exact ⟨k, t, u, ht, hport, hacc.performs_P (hport ▸ hd) hstep hm, hu⟩
  case right =>
    intro i rest hd
    obtain ⟨k, t, u, ht, ⟨hacc, hport⟩, hstep, hm, hu⟩ := exists_first_turn
      (Q := fun t => t.Accepting ∧ t.portC = s.portC) hfairC hrun ⟨hs, rfl⟩ (by
        rintro k t u hne ⟨hacc, hport⟩ hstep hm
        rw [(honly k).resolve_right hne] at hstep
        exact (State.stepOf_P_keeps_accepting hacc hstep hm).imp_right fun hkept => hkept.trans hport)
    exact ⟨k, t, u, ht, hport, hacc.performs_C (hport ▸ hd) hstep hm, hu⟩

end Sys2Proof.Machine

/-! Proofs for 30_encoding.md: the encoder and the decoder (O1, O2, O3, O4), OPEN and the device's answer (O23, O24),
PULL to any obtained format (O31), the responses of RDOVF and RDROW (O39, O55). -/

namespace Sys2Proof

/-! The fields of a command word (30_encoding.md R100, R101). -/

theorem Instr.opcode_headWord (i : Instr) : i.headWord.extractLsb' 24 8 = i.op.byte :=
  BitVec.extractLsb'_append_eq_left

/-- A field of the command word below the opcode is that field of the operand bits. -/
theorem Instr.field_headWord (i : Instr) {start len : Nat} (h : start + len ≤ 24) :
    i.headWord.extractLsb' start len = i.fieldBits.extractLsb' start len :=
  BitVec.extractLsb'_append_eq_of_add_le h

/-- Format O: each operand of OPEN is read from where it is written. -/
theorem formatO_fields (b : BitVec 1) (ch : BitVec 3) (rate : BitVec 20) :
    (b ++ ch ++ rate).extractLsb' 0 20 = rate ∧ (b ++ ch ++ rate).extractLsb' 20 3 = ch ∧
      (b ++ ch ++ rate).extractLsb' 23 1 = b := by
  refine ⟨BitVec.extractLsb'_append_eq_right, ?_, ?_⟩
  · rw [BitVec.extractLsb'_append_eq_of_le (Nat.le_refl 20)]
    exact BitVec.extractLsb'_append_eq_right
  · rw [BitVec.extractLsb'_append_eq_of_le (by decide)]
    exact BitVec.extractLsb'_append_eq_left

/-- A word is its fields joined again. -/
theorem formatO_join (w : Word) :
    w.extractLsb' 23 1 ++ w.extractLsb' 20 3 ++ w.extractLsb' 0 20 = w.extractLsb' 0 24 := by
  rw [BitVec.extractLsb'_append_extractLsb'_eq_extractLsb' (by rfl),
    BitVec.extractLsb'_append_extractLsb'_eq_extractLsb' (by rfl)]

@[simp] theorem SampleFormat.toBit_ofBit (b : BitVec 1) : (SampleFormat.ofBit b).toBit = b := by
  revert b; decide

/-! Encoding, then decoding (O2). -/

/-- What the decoder makes of the command word of a command. -/
def Instr.head : Instr → Head
  | .push samples => .push (BitVec.ofNat 24 samples.length)
  | i => .whole i

/-- The operand fields of a well-formed command are read back. -/
theorem decodeFields_headWord {i : Instr} (h : i.wf = true) : decodeFields i.op i.headWord = .ok i.head := by
  cases i with
  | openReq rate ch fmt =>
    obtain ⟨hrate, hch, hfmt⟩ := formatO_fields fmt.toBit ch rate
    have hne : ch ≠ 0#3 := by simpa [Instr.wf] using h
    simp only [Instr.op, decodeFields, decodeO, Instr.field_headWord, Nat.reduceAdd, Nat.reduceLeDiff,
      Instr.fieldBits, hrate, hch, hfmt, if_neg hne, SampleFormat.ofBit_toBit, Instr.head]
  | push samples =>
    rw [Instr.op, decodeFields, Instr.field_headWord _ (Nat.le_refl 24), BitVec.extractLsb'_eq_self]; rfl
  | pull n =>
    rw [Instr.op, decodeFields, Instr.field_headWord _ (Nat.le_refl 24), BitVec.extractLsb'_eq_self]; rfl
  | rdrow row =>
    have hzero : (0#21 ++ row).extractLsb' 3 21 = 0#21 := BitVec.extractLsb'_append_eq_left
    have hrow : (0#21 ++ row).extractLsb' 0 3 = row := BitVec.extractLsb'_append_eq_right
    simp only [Instr.op, decodeFields, decodeR, Instr.field_headWord, Nat.reduceAdd, Nat.reduceLeDiff,
      Instr.fieldBits, hzero, hrow, if_true, Instr.head]
  | close => rfl
  | rdovf => rfl
  | render => rfl
  | inval => rfl
  | encode => rfl

theorem decodeWord_headWord {i : Instr} (h : i.wf = true) : decodeWord i.port i.headWord = .ok i.head := by
  simp only [decodeWord, Instr.opcode_headWord, Op.ofByte_byte, Instr.port, if_true, decodeFields_headWord h]

/-- The count field of a well-formed PUSH is the number of its beats (30_encoding.md R113). -/
theorem Instr.length_beats {i : Instr} (h : i.wf = true) : i.beats.length = i.head.beats := by
  cases i with
  | push samples =>
    have hlt : samples.length < 2 ^ 24 := by simpa [Instr.wf] using h
    exact (Nat.mod_eq_of_lt hlt).symm
  | _ => rfl

theorem Instr.finish_head (i : Instr) : i.head.finish i.beats = i := by cases i <;> rfl

/-- What a stream that begins with a word decodes to: the word's head, completed by as many beats as it asks for
(30_encoding.md R100, R113). -/
theorem decode_word_ok_iff {Act : Type} {p : Port} {w : Word} {later rest : List (PortItem Act)} {i : Instr} :
    decode p (.word w :: later) = .ok (i, rest) ↔ ∃ h samples, decodeWord p w = .ok h ∧
      samples.length = h.beats ∧ later = samples.map PortItem.beat ++ rest ∧ h.finish samples = i := by
  constructor
  · intro hd
    simp only [decode] at hd
    split at hd
    · cases hd
    · rename_i h hw
      split at hd
      · cases hd
      · rename_i samples rest' hb
        cases hd
        obtain ⟨hlen, hlater⟩ := takeBeats_ok hb
        exact ⟨h, samples, hw, hlen, hlater, rfl⟩
  · rintro ⟨h, samples, hw, hlen, rfl, rfl⟩
    simp only [decode, hw, ← hlen, takeBeats_append]

/-- Settles O2: the word is read back as the command's head (`decodeWord_headWord`), which asks for the command's
beats. -/
theorem decodeOfEncodeIsTheCommand : Obligations.DecodeOfEncodeIsTheCommand :=
  fun _ i _ hwf => decode_word_ok_iff.2
    ⟨i.head, i.beats, decodeWord_headWord hwf, Instr.length_beats hwf, rfl, i.finish_head⟩

/-! Decoding, then encoding (O3). -/

theorem Op.byte_of_ofByte {b : Byte} {op : Op} (h : Op.ofByte b = some op) : op.byte = b := by
  unfold Op.ofByte at h
  repeat' split at h
  all_goals cases h
  all_goals exact (by assumption : b = _).symm

/-- The operand fields accepted are those of a well-formed command with the beats its head asks for. -/
theorem decodeFields_ok {op : Op} {w : Word} {h : Head} {samples : List Sample} (hd : decodeFields op w = .ok h)
    (hlen : samples.length = h.beats) :
    (h.finish samples).wf = true ∧ (h.finish samples).fieldBits = w.extractLsb' 0 24 ∧
      (h.finish samples).beats = samples := by
  have hnil (i : Instr) (hi : h = .whole i) : samples = [] := List.eq_nil_of_length_eq_zero (by rw [hlen, hi]; rfl)
  cases op <;> simp only [decodeFields, decodeZ, decodeO, decodeR] at hd
  case push =>
    cases hd
    refine ⟨decide_eq_true (hlen ▸ (w.extractLsb' 0 24).isLt), ?_, rfl⟩
    rw [Head.finish, Instr.fieldBits, hlen]
    exact (BitVec.ofNat_toNat 24 _).trans (BitVec.setWidth_eq _)
  case pull => cases hd; exact ⟨rfl, rfl, (hnil _ rfl).symm⟩
  case openReq =>
    split at hd <;> cases hd
    rename_i hch
    refine ⟨by simpa [Head.finish, Instr.wf] using hch, ?_, (hnil _ rfl).symm⟩
    rw [Head.finish, Instr.fieldBits, SampleFormat.toBit_ofBit, formatO_join]
  case rdrow =>
    split at hd <;> cases hd
    rename_i hzero
    refine ⟨rfl, ?_, (hnil _ rfl).symm⟩
    rw [Head.finish, Instr.fieldBits, ← hzero]
    exact BitVec.extractLsb'_append_extractLsb'_eq_extractLsb' rfl
  all_goals
    split at hd <;> cases hd
    rename_i hzero
    exact ⟨rfl, hzero.symm, (hnil _ rfl).symm⟩

/-- An accepted word is the command word of the command it begins, presented on that command's port. -/
theorem decodeWord_ok {p : Port} {w : Word} {h : Head} {samples : List Sample} (hd : decodeWord p w = .ok h)
    (hlen : samples.length = h.beats) :
    (h.finish samples).wf = true ∧ (h.finish samples).port = p ∧ (h.finish samples).headWord = w ∧
      (h.finish samples).beats = samples := by
  unfold decodeWord at hd
  split at hd
  · cases hd
  · rename_i op hop
    split at hd
    · rename_i hport
      obtain ⟨hwf, hfields, hbeats⟩ := decodeFields_ok hd hlen
      have hop' := Machine.decodeFields_ok_op hd samples
      refine ⟨hwf, by rw [Instr.port, hop', hport], ?_, hbeats⟩
      rw [Instr.headWord, hop', hfields, Op.byte_of_ofByte hop]
      exact BitVec.extractLsb'_append_extractLsb'
    · cases hd

/-- Settles O3: the head and its beats determine the command, whose word and beats are those of the stream. -/
theorem acceptedStreamIsAnEncoding : Obligations.AcceptedStreamIsAnEncoding := by
  intro Act p items rest i hd
  obtain ⟨w, later, rfl⟩ := Machine.decode_ok_word hd
  obtain ⟨h, samples, hw, hlen, rfl, rfl⟩ := decode_word_ok_iff.1 hd
  obtain ⟨hwf, hport, hword, hbeats⟩ := decodeWord_ok hw hlen
  exact ⟨hwf, hport, by rw [encode, hword, hbeats]; rfl⟩

/-! The reserved encodings (O4). -/

/-- The opcodes of the map and no others are assigned (30_encoding.md R102, R112). -/
theorem Op.ofByte_eq_none_iff {b : Byte} : Op.ofByte b = none ↔
    b ∉ [0x01#8, 0x02#8, 0x03#8, 0x04#8, 0x05#8, 0x10#8, 0x11#8, 0x20#8, 0x21#8] := by
  have hassigned : ∀ b ∈ [0x01#8, 0x02#8, 0x03#8, 0x04#8, 0x05#8, 0x10#8, 0x11#8, 0x20#8, 0x21#8],
      Op.ofByte b ≠ none := by decide
  constructor
  · exact fun hnone hmem => hassigned b hmem hnone
  · intro hmem
    simp only [List.mem_cons, not_or] at hmem
    simp [Op.ofByte, hmem]

theorem decodeZ_rejects_iff (w : Word) (i : Instr) :
    (∃ why, decodeZ w i = .error why) ↔ w.extractLsb' 0 24 ≠ 0#24 := by
  unfold decodeZ; split <;> simp [*]

theorem decodeO_rejects_iff (w : Word) : (∃ why, decodeO w = .error why) ↔ w.extractLsb' 20 3 = 0#3 := by
  unfold decodeO; split <;> simp [*]

theorem decodeR_rejects_iff (w : Word) : (∃ why, decodeR w = .error why) ↔ w.extractLsb' 3 21 ≠ 0#21 := by
  unfold decodeR; split <;> simp [*]

/-- A word with an assigned opcode is rejected off its port, and on it by its operand fields. -/
theorem decodeWord_rejects_iff {p : Port} {w : Word} {op : Op} (hop : Op.ofByte (w.extractLsb' 24 8) = some op) :
    (∃ why, decodeWord p w = .error why) ↔ op.port ≠ p ∨ ∃ why, decodeFields op w = .error why := by
  simp only [decodeWord, hop]
  split <;> simp [*]

/-- Settles O4: an opcode that is not assigned is rejected; of an assigned one its port and its format decide. -/
theorem reservedWordsAreExactlyTheRejected : Obligations.ReservedWordsAreExactlyTheRejected := by
  intro p w
  cases hop : Op.ofByte (w.extractLsb' 24 8) with
  | none =>
    have hrej : decodeWord p w = .error .reservedOpcode := by simp only [decodeWord, hop]
    exact iff_of_true ⟨_, hrej⟩ (.inl (Op.ofByte_eq_none_iff.1 hop))
  | some op =>
    have hoffP : Port.P ≠ p ↔ p = .C := by cases p <;> decide
    have hoffC : Port.C ≠ p ↔ p = .P := by cases p <;> decide
    rw [decodeWord_rejects_iff hop, ← Op.byte_of_ofByte hop]
    cases op <;> simp only [Op.port, Op.byte, decodeFields, hoffP, hoffC]
    case openReq => simp [decodeO_rejects_iff]
    case push => simp
    case pull => simp
    case rdrow => simp [decodeR_rejects_iff]
    all_goals simp [decodeZ_rejects_iff]

/-- Settles O1. -/
theorem writtenCommandWordsDecode : Obligations.WrittenCommandWordsDecode := by
  unfold Obligations.WrittenCommandWordsDecode
  decide

end Sys2Proof

namespace Sys2Proof.Machine

/-! OPEN (O23, O24). -/

theorem State.dropAnswer_request (s : State) (r : OpenRequest) : (s.request r).dropAnswer = s.dropAnswer.request r := by
  cases h : s.devAnswers <;> simp only [State.dropAnswer, State.request_devAnswers, h] <;> rfl

theorem State.takeAnswer_request (s : State) (r : OpenRequest) (a : DevAnswer) :
    (s.request r).takeAnswer a = (s.takeAnswer a).request r := by
  cases a <;> rfl

/-- OPEN in A_IDLE: what the answer makes of the block, and beside it the request passed on (40_audio_ring.md R140,
30_encoding.md R111). -/
theorem exec_openReq_of_idle {s : State} {rate : BitVec 20} {ch : BitVec 3} {fmt : SampleFormat} (hs : s.astate = .idle)
    (hch : ch ≠ 0#3) : exec (.openReq rate ch fmt) s =
      .next ((s.dropAnswer.takeAnswer s.nextAnswer).request ⟨rate, ch, fmt⟩) := by
  rw [exec_openReq, execOpen_of_idle hs hch, State.dropAnswer_request, State.takeAnswer_request]

theorem State.requests_takeAnswer_dropAnswer (s : State) (a : DevAnswer) :
    (s.dropAnswer.takeAnswer a).requests = s.requests := by
  obtain ⟨_, _, hd⟩ := s.dropAnswer_frame
  rw [hd]
  cases a <;> rfl

/-- Settles O24: a request only joins the record of requests. -/
theorem openRequestInfluencesNothing : Obligations.OpenRequestInfluencesNothing := by
  intro s t rate rate' ch ch' fmt fmt' hch' h
  obtain ⟨hs, hch, -⟩ := execOpen_next h
  rw [exec_openReq_of_idle hs hch] at h
  cases h
  rw [exec_openReq_of_idle hs hch']
  simp only [State.request, State.requests_takeAnswer_dropAnswer, true_and]

/-- OPEN's response on success as a number: format in bit 23, channel count in bits 22:20 (30_encoding.md R104). -/
theorem openResponse_channelsOf (c : Fin 7) (f : SampleFormat) : openResponse f (channelsOf c) =
    BitVec.ofNat 32 ((if f = .unsigned16 then 2 ^ 23 else 0) + (c.val + 1) * 2 ^ 20) := by
  cases f <;> revert c <;> decide

/-- What obtained parameters make of the block, the response as a number (40_audio_ring.md R140). -/
theorem State.takeAnswer_ok (s : State) (c : Fin 7) (f : SampleFormat) : s.takeAnswer (.ok c f) = { s with
    och := BitVec.ofNat 3 (c.val + 1), ofmt := f, astate := .opened
    responses := s.responses ++
      [BitVec.ofNat 32 ((if f = .unsigned16 then 2 ^ 23 else 0) + (c.val + 1) * 2 ^ 20)] } := by
  rw [← openResponse_channelsOf]; rfl

/-- Settles O23: `nextAnswer` is the first answer listed, or, where none is, a free one that is one of the two. -/
theorem openTakesTheDevicesAnswer : Obligations.OpenTakesTheDevicesAnswer := by
  intro s rate ch fmt hs hch
  rw [exec_openReq_of_idle hs hch]
  refine ⟨fun rest hq => ?listedFail, fun c f rest hq => ?listedOk, fun hq => ⟨_, rfl, ?free⟩⟩
  case listedFail => simp only [State.dropAnswer, State.nextAnswer, hq]; rfl
  case listedOk => simp only [State.dropAnswer, State.nextAnswer, hq, List.headD_cons, State.takeAnswer_ok]; rfl
  case free =>
    simp only [State.dropAnswer, hq]
    cases s.nextAnswer with
    | fail => exact .inl rfl
    | ok c f => exact .inr ⟨c, f, by rw [State.takeAnswer_ok]; rfl⟩

/-! PULL to any obtained format (O31). -/

/-- Byte `b` of channel `c` in an output frame is byte `b` of the sample (40_audio_ring.md R144). -/
theorem getElem?_frameBytes {och : BitVec 3} {fmt : SampleFormat} {c b : Nat} (hc : c < och.toNat)
    (hb : b < bytesPerSample fmt) (v : Sample) :
    (frameBytes och fmt v)[c * bytesPerSample fmt + b]? = (sampleBytes fmt v)[b]? := by
  rw [frameBytes, ← List.map_replicate, ← List.flatMap_def]
  exact getElem?_flatMap_of_length (length_sampleBytes fmt) hb (by simp [hc])

/-- Byte `b` of channel `c` in output frame `j` after a PULL. -/
theorem State.get?_pulled_channel {s : State} {n : BitVec 24} {j c b : Nat} (hj : j < s.deliveredCount n)
    (hc : c < s.och.toNat) (hb : b < bytesPerSample s.ofmt) :
    Memory.get? (s.outbuf.setRun 0 (s.pulledBytes n)) (j * s.frameSize + (c * bytesPerSample s.ofmt + b)) =
      (sampleBytes s.ofmt (s.ringAt ((s.startCur + j) % s.cfg.n)))[b]? := by
  have hroom : (c + 1) * bytesPerSample s.ofmt ≤ s.frameSize := Nat.mul_le_mul_right _ hc
  rw [Nat.succ_mul] at hroom
  rw [State.get?_setRun_pulledBytes hj (by omega), getElem?_frameBytes hc hb]

/-- Settles O31: two bytes a channel in unsigned16, one in unsigned8. -/
theorem pullToAnyFormat : Obligations.PullToAnyFormat := by
  intro s n fb d hstart hend ho _ hfb hd
  have hsize : s.frameSize = fb := by rw [hfb, State.frameSize]; cases s.ofmt <;> rfl
  have hcount : s.deliveredCount n = d := by rw [hd, ← hsize]; rfl
  subst hsize hcount
  refine ⟨_, exec_pull_eq ⟨hstart, hend⟩ ho n, fun j hj c hc => ⟨fun hofmt => ?wide, fun hofmt => ?narrow⟩,
    fun a ha => s.get?_setRun_pulledBytes_of_le n ha⟩
  all_goals
    have hbyte (b : Nat) (hb : b < bytesPerSample s.ofmt) := State.get?_pulled_channel hj hc hb
    simp only [hofmt, bytesPerSample] at hbyte
  case wide =>
    simp only [Nat.mul_comm c, ← Nat.add_assoc] at hbyte
    exact ⟨hbyte 0 (by decide), hbyte 1 (by decide)⟩
  case narrow =>
    rw [Nat.mul_one] at hbyte
    exact hbyte 0 (by decide)

/-! The responses of RDOVF and RDROW (O39, O55). -/

/-- Settles O39. -/
theorem readOverflowRespondsTheCounter : Obligations.ReadOverflowRespondsTheCounter := fun _ => rfl

/-- Settles O55. -/
theorem readRowRespondsTheStoredRow : Obligations.ReadRowRespondsTheStoredRow :=
  fun _ => ⟨rfl, rfl, rfl, rfl, rfl, rfl, rfl, rfl⟩

end Sys2Proof.Machine

/-! Proofs for 40_audio_ring.md: when a command completes (O17), the refusals by name (O18), PUSH of one sample (O25)
and of a burst (O27, O28, O29), samples that go in and come out (O34), PULL of nothing (O33) and CLOSE (O37). -/

namespace Sys2Proof.Machine

/-! When a command completes (O17), and the names under which it is refused otherwise (O18). -/

/-- A command that completes met its precondition (60_exceptions.md R245). -/
theorem exec_next_legal {i : Instr} {s t : State} (h : exec i s = .next t) : s.Legal i := by
  cases i with
  | openReq rate ch fmt => obtain ⟨hidle, hch, -⟩ := execOpen_next h; exact ⟨hidle, hch⟩
  | push samples => exact (execPush_next h).1
  | pull n => exact (execPull_next h).1
  | close => exact (execClose_next h).1
  | render => exact (execRender_next h).1
  | encode =>
    rintro ⟨hactive, hpaused⟩
    obtain ⟨-, hkeys, -⟩ | ⟨hclosed, -⟩ := execEncode_next h
    · exact hkeys
    · simp [State.gateOpen, hactive, hpaused] at hclosed
  | rdovf | inval | rdrow => exact trivial

/-- Settles O17: each command by its inversion lemma one way, by its legal case the other. -/
theorem commandCompletesExactlyWhenLegal : Obligations.CommandCompletesExactlyWhenLegal :=
  fun _ _ => ⟨fun ⟨_, h⟩ => exec_next_legal h, exec_of_legal⟩

theorem execOpen_of_not_idle {s : State} {rate : BitVec 20} {ch : BitVec 3} {fmt : SampleFormat}
    (hs : s.astate ≠ .idle) : execOpen rate ch fmt s = .refused .openNotIdle := if_pos hs

theorem execOpen_of_zero_channels {s : State} {rate : BitVec 20} {fmt : SampleFormat} (hs : s.astate = .idle) :
    execOpen rate 0#3 fmt s = .refused (.reservedEncoding .zeroChannels) := by
  rw [execOpen, if_neg (not_not_intro hs), if_pos rfl]

theorem execPush_of_not_opened {s : State} {samples : List Sample} (hs : s.astate ≠ .opened) :
    execPush samples s = .refused .ringNotOpen := if_pos hs

theorem execPull_of_not_opened {s : State} {n : BitVec 24} (hs : s.astate ≠ .opened) :
    execPull n s = .refused .ringNotOpen := if_pos hs

theorem execClose_of_not_opened {s : State} (hs : s.astate ≠ .opened) :
    execClose s = .refused .closeNotOpen := if_pos hs

/-- Settles O18, refusal by refusal. -/
theorem illegalAudioCommandIsRefusedByName : Obligations.IllegalAudioCommandIsRefusedByName :=
  fun _ => ⟨fun _ _ _ => execOpen_of_not_idle, fun _ _ => execOpen_of_zero_channels, fun _ => execPush_of_not_opened,
    fun _ => execPull_of_not_opened, execClose_of_not_opened⟩

/-! PUSH without its lock: the loop neither reads nor writes it. -/

theorem State.push1_acquire (s : State) (l : Lock) (v : Sample) : (s.acquire l).push1 v = (s.push1 v).acquire l := by
  have hmeet : ((s.acquire l).writeSlot v).cursorsMeet = (s.writeSlot v).cursorsMeet := rfl
  simp only [State.push1, hmeet]
  split <;> rfl

theorem State.pushAll_acquire (s : State) (l : Lock) (vs : List Sample) :
    (s.acquire l).pushAll vs = (s.pushAll vs).acquire l := by
  induction vs generalizing s with
  | nil => rfl
  | cons v vs ih => rw [State.pushAll_cons, State.push1_acquire, ih, ← State.pushAll_cons]

theorem State.pushAll_release (s : State) (vs : List Sample) : s.release.pushAll vs = (s.pushAll vs).release :=
  s.pushAll_acquire .free vs

/-- A PUSH in A_OPEN is its loop, and leaves the lock FREE. -/
theorem exec_push_eq {s : State} (hs : s.astate = .opened) (vs : List Sample) :
    exec (.push vs) s = .next (s.pushAll vs).release := by
  rw [exec_push, execPush_of_opened hs, State.pushAll_acquire]
  rfl

/-- PUSH leaves the lifecycle state and the obtained format as they are. -/
theorem State.pushAll_keeps_format (s : State) (vs : List Sample) :
    (s.pushAll vs).astate = s.astate ∧ (s.pushAll vs).och = s.och ∧ (s.pushAll vs).ofmt = s.ofmt := by
  obtain ⟨_, _, _, _, h⟩ := s.pushAll_frame vs
  rw [h]
  exact ⟨rfl, rfl, rfl⟩

/-! One sample (O25), and a burst sample by sample (O27). -/

/-- `push1` by whether `end`, advanced, meets `start`, for any cursors (40_audio_ring.md R142). -/
theorem State.push1_eq_ite (s : State) (v : Sample) :
    s.push1 v = if (s.endCur + 1) % s.cfg.n = s.startCur then (s.writeSlot v).dropOldest else s.writeSlot v :=
  if_congr decide_eq_true_iff rfl rfl

/-- Settles O25: the ring is the one `writeSlot` leaves, whether or not the oldest sample is then dropped. -/
theorem pushOfOneSample : Obligations.PushOfOneSample := by
  intro s v hs
  obtain ⟨hslot, hother⟩ := Memory.set_changes_only s.ring s.endCur v
  refine ⟨s.ring.set s.endCur v, hslot, hother, ?_⟩
  rw [exec_push_eq hs, State.pushAll_cons, State.pushAll_nil, State.push1_eq_ite]
  split <;> rfl

/-- Settles O27: the lock the first PUSH frees and the second takes again makes no difference. -/
theorem burstIsItsSamplesOneByOne : Obligations.BurstIsItsSamplesOneByOne := by
  intro s t v vs
  by_cases hs : s.astate = .opened
  · have hu : (s.pushAll [v]).release.astate = .opened := (s.pushAll_keeps_format [v]).1.trans hs
    have hburst : ((s.pushAll [v]).release.pushAll vs).release = (s.pushAll (v :: vs)).release := by
      rw [State.pushAll_release]
      rfl
    simp only [exec_push_eq hs, Host.Outcome.next.injEq, exists_eq_left', exec_push_eq hu, hburst]
  · exact ⟨fun h => absurd (exec_next_legal h) hs, fun ⟨_, h, _⟩ => absurd (exec_next_legal h) hs⟩

/-! A burst in closed form (O28), and one pushed into an empty ring (O29). -/

theorem State.ringSize_pushAll {s : State} (h : s.CursorsOk) (vs : List Sample) :
    (s.pushAll vs).ringSize = min (s.ringSize + vs.length) (s.cfg.n - 1) := by
  rw [← State.length_resident, State.resident_pushAll h, List.length_drop, List.length_append, State.length_resident]
  omega

/-- Settles O28, by the closed forms of the loop of PUSH. -/
theorem pushOfABurst : Obligations.PushOfABurst := by
  refine ⟨fun _ _ => execPush_of_not_opened, fun s samples hstart hend hs => ?_⟩
  have hc : s.CursorsOk := ⟨hstart, hend⟩
  rw [exec_push_eq hs]
  refine ⟨(s.pushAll samples).ring, congrArg (Host.Outcome.next ∘ State.release) (State.pushAll_eq hc samples),
    fun a ha => State.get?_ring_pushAll hc samples ha, ?_⟩
  rintro _ ⟨⟩
  refine ⟨State.ringSize_pushAll hc samples, (State.resident_pushAll hc samples).trans ?_⟩
  congr 1
  rw [List.length_append, State.length_resident]
  omega

/-- A burst pushed into an empty ring: the samples past the capacity, oldest first, are dropped and counted. -/
theorem State.pushAll_of_empty {s : State} (h : s.CursorsOk) (hempty : s.endCur = s.startCur) (vs : List Sample) :
    (s.pushAll vs).resident = vs.drop (vs.length - (s.cfg.n - 1)) ∧
      (s.pushAll vs).ovf = s.ovf + BitVec.ofNat 32 (vs.length - (s.cfg.n - 1)) := by
  have hz : s.ringSize = 0 := (State.ringSize_eq_zero h).2 hempty
  have hnil : s.resident = [] := List.eq_nil_of_length_eq_zero (s.length_resident.trans hz)
  constructor
  · rw [State.resident_pushAll h, hnil, hz, List.nil_append, Nat.zero_add]
  · rw [State.pushAll_eq h, hz, Nat.zero_add]

/-- Settles O29: what is past the capacity is `k` samples. -/
theorem overfilledRingKeepsTheMostRecent : Obligations.OverfilledRingKeepsTheMostRecent := by
  intro s samples k hstart hempty hs hlen
  have hpush := State.pushAll_of_empty ⟨hstart, hempty ▸ hstart⟩ hempty samples
  rw [hlen, Nat.add_sub_cancel_left] at hpush
  exact ⟨_, exec_push_eq hs samples, hpush⟩

/-! What goes in and comes out (O34), and PULL of nothing (O33). -/

/-- The slot of the `j`-th oldest resident sample holds it. -/
theorem State.ringAt_of_resident {s : State} {j : Nat} {v : Sample} (h : s.resident[j]? = some v) :
    s.ringAt ((s.startCur + j) % s.cfg.n) = v := by
  obtain ⟨hj, rfl⟩ := List.getElem?_eq_some_iff.1 h
  simp [State.resident, State.samplesFrom]

/-- Settles O34: after the PUSH the resident samples are the burst, and the PULL asks for exactly as many. -/
theorem pushedSamplesComeOutUnmodified : Obligations.PushedSamplesComeOutUnmodified := by
  intro s samples n hstart hempty hs hoch hofmt hfit hn
  have hc : s.CursorsOk := ⟨hstart, hempty ▸ hstart⟩
  obtain ⟨hres, hovf⟩ := State.pushAll_of_empty hc hempty samples
  rw [Nat.sub_eq_zero_of_le hfit] at hres hovf
  obtain ⟨hs', hoch', hofmt'⟩ := s.pushAll_keeps_format samples
  have hp : (s.pushAll samples).release.CursorsOk := hc.pushAll samples
  have hsize : (s.pushAll samples).release.ringSize = samples.length := by
    rw [← State.length_resident]; exact congrArg List.length hres
  have hall : min (n.toNat / 2) samples.length = samples.length := by omega
  obtain ⟨m, hpull, hbytes, -⟩ :=
    pullToMono16.2 _ n hp.1 hp.2 (hs'.trans hs) (hoch'.trans hoch) (hofmt'.trans hofmt)
  rw [hsize, hall] at hpull hbytes
  refine ⟨_, _, exec_push_eq hs samples, hpull, hovf.trans (BitVec.add_zero _), ?_, fun j v hv => ?_⟩
  · rw [← hsize, State.start_add_ringSize hp]
  · have hslot : (s.pushAll samples).release.ringAt _ = v :=
      State.ringAt_of_resident ((congrArg (·[j]?) hres).trans hv)
    obtain ⟨hj, -⟩ := List.getElem?_eq_some_iff.1 hv
    rw [← hslot]
    exact hbytes j hj

/-- Settles O33: the loop of PULL ends before its first turn. -/
theorem pullOnEmptyRingChangesNothing : Obligations.PullOnEmptyRingChangesNothing := by
  intro s n hs hempty hlock
  have hmeet : (s.acquire .C).cursorsMeet = true := decide_eq_true hempty
  have hloop (k : Nat) : (s.acquire .C).pullLoop k 0 = s.acquire .C := by
    cases k with
    | zero => rfl
    | succ k => rw [State.pullLoop, if_pos hmeet]
  rw [exec_pull, execPull_of_opened hs, hloop]
  exact congrArg (fun l => Host.Outcome.next { s with lock := l }) hlock.symm

/-! CLOSE (O37). -/

/-- Settles O37, by what CLOSE comes to in A_OPEN. -/
theorem closeChangesTheAudioStateAlone : Obligations.CloseChangesTheAudioStateAlone := fun _ => execClose_of_opened

end Sys2Proof.Machine

/-! Proofs for 41_screen_diff.md: what RENDER writes (O40), the baseline (O42), RENDER of an unchanged frame (O44, O45),
a full pass (O46, O43), the inverted picture (O47), what RENDER does not read (O48, O49) and INVAL (O50). -/

namespace Sys2Proof.Machine

/-! Which cells are skipped, and what that makes of the list of pixel writes. -/

theorem State.skipped_iff {s : State} {y cx : Nat} : s.skipped y cx = true ↔
    s.curAt (s.cfg.cellAddr y cx) = s.prevAt (s.cfg.cellAddr y cx) ∧ s.rf = false ∧ s.chroma = false := by
  simp [State.skipped, and_assoc]

theorem State.skipped_eq_false_iff {s : State} {y cx : Nat} : s.skipped y cx = false ↔
    ¬ (s.curAt (s.cfg.cellAddr y cx) = s.prevAt (s.cfg.cellAddr y cx) ∧ s.rf = false ∧ s.chroma = false) := by
  rw [← State.skipped_iff, Bool.not_eq_true]

theorem State.renderWrites_eq_nil {s : State}
    (h : ∀ y < s.cfg.visH, ∀ cx < s.cfg.visW / 8, s.skipped y cx = true) : s.renderWrites = [] := by
  refine List.eq_nil_iff_forall_not_mem.2 fun w hw => ?_
  obtain ⟨y, hy, cx, hcx, hdrawn, -⟩ := State.mem_renderWrites.1 hw
  exact Bool.false_ne_true (hdrawn.symm.trans (h y hy cx hcx))

/-- RENDER writes the same pixels in two states that skip the same visible cells and expand them alike. -/
theorem State.renderWrites_congr {s s' : State} (hcfg : s'.cfg = s.cfg)
    (h : ∀ y < s.cfg.visH, ∀ cx < s.cfg.visW / 8,
      s'.skipped y cx = s.skipped y cx ∧ s'.cellPixel y cx = s.cellPixel y cx) : s'.renderWrites = s.renderWrites := by
  simp only [State.renderWrites, State.cellWrites, hcfg]
  refine List.flatMap_congr fun y hy => List.flatMap_congr fun cx hcx => ?_
  obtain ⟨hskip, hpixel⟩ := h y (List.mem_range.1 hy) cx (List.mem_range.1 hcx)
  rw [hskip, hpixel]

theorem State.paint_of_no_writes {s : State} (h : s.renderWrites = []) : s.paint = s := by
  rw [State.paint, h]; rfl

/-- A second bulk copy of the same frame, and a second clearing of the flag, change nothing. -/
theorem State.rebaseline_clearRefresh_again (s : State) :
    s.rebaseline.clearRefresh.rebaseline.clearRefresh = s.rebaseline.clearRefresh := rfl

/-! What RENDER writes (O40), the baseline it leaves (O42) and RENDER of an unchanged frame (O44, O45). -/

theorem execRender_of_not_fbrdy {s : State} (hs : s.fbrdy = false) : execRender s = .refused .buffersNotReady :=
  if_neg (Bool.eq_false_iff.1 hs)

/-- PREV after RENDER lists the byte of CUR at every index of the padded buffer (41_screen_diff.md R184). -/
theorem State.get?_rebaseline_prev (s : State) {a : Nat} (ha : a < Space.size s.cfg .prev) :
    Memory.get? s.rebaseline.prev a = some (s.curAt a) :=
  (Memory.get?_tabulate _ _ _).trans (if_pos ha)

/-- Settles O40: the value and the frame of PIXOUT are `State.get?_render_written` and `State.get?_render_kept`. -/
theorem renderWritesThePixelsOfCellsNotSkipped : Obligations.RenderWritesThePixelsOfCellsNotSkipped := by
  refine ⟨by decide, fun s => execRender_of_not_fbrdy, fun s _ hb =>
    ⟨_, _, execRender_of_fbrdy hb, fun y hy cx hcx hdrawn k hk => ?written, fun p hp => ?kept,
      fun a ha => s.get?_rebaseline_prev ha⟩⟩
  case written => exact State.get?_render_written hy hcx (State.skipped_eq_false_iff.2 hdrawn) hk
  case kept =>
    exact State.get?_render_kept fun y hy cx hcx hdrawn k hk =>
      (hp y hy cx hcx (State.skipped_eq_false_iff.1 hdrawn) k hk).symm

/-- Settles O42. -/
theorem renderRebaselinesTheWholeFrame : Obligations.RenderRebaselinesTheWholeFrame := by
  intro s t h a ha
  obtain ⟨-, rfl⟩ := execRender_next h
  exact ⟨s.get?_rebaseline_prev ha, by simp⟩

/-- Settles O44: every visible cell is skipped, so the list of pixel writes is empty. -/
theorem identicalFramesWriteNoPixel : Obligations.IdenticalFramesWriteNoPixel := by
  intro s hb hrf hchroma hsame
  have hnone : s.renderWrites = [] :=
    State.renderWrites_eq_nil fun y hy cx hcx => State.skipped_iff.2 ⟨hsame y hy cx hcx, hrf, hchroma⟩
  have hkept : s.paint.pixout = s.pixout := congrArg State.pixout (State.paint_of_no_writes hnone)
  exact ⟨_, execRender_of_fbrdy hb, hkept⟩

/-- After RENDER a visible cell is skipped exactly when chroma mode is off (41_screen_diff.md R181, R184, R185). -/
theorem State.skipped_rendered {s : State} (hcfg : s.cfg.wf) {y cx : Nat} (hy : y < s.cfg.visH)
    (hcx : cx < s.cfg.visW / 8) : s.paint.rebaseline.clearRefresh.skipped y cx = !s.chroma := by
  have hprev := s.paint.rebaseline_prevAt (Config.cellAddr_lt hcfg hy hcx)
  simp [State.skipped, hprev]

/-- Settles O45: the second RENDER skips every visible cell, and its bulk copy and cleared flag are there already. -/
theorem secondRenderOfSameFrameWritesNothing : Obligations.SecondRenderOfSameFrameWritesNothing := by
  intro s t hcfg hchroma h
  obtain ⟨hb, rfl⟩ := execRender_next h
  have hnone : s.paint.rebaseline.clearRefresh.renderWrites = [] :=
    State.renderWrites_eq_nil fun y hy cx hcx => by rw [State.skipped_rendered hcfg hy hcx, hchroma, Bool.not_false]
  have hready : s.paint.rebaseline.clearRefresh.fbrdy = true := by simpa using hb
  rw [exec_render, execRender_of_fbrdy hready, State.paint_of_no_writes hnone, State.rebaseline_clearRefresh_again]

/-! A full pass: under a refresh or in chroma mode every visible pixel is written (O46, O43). -/

/-- The value RENDER gives the visible pixel `(x, y)`, by its coordinates (41_screen_diff.md R182, R183). -/
theorem State.cellPixel_of_pixel (s : State) (x y : Nat) : s.cellPixel y (x / 8) (x % 8) =
    if s.chroma then
      Config.chromaPixel (pixelBit (s.curAt (s.cfg.cellAddr y (x / 8))) (x % 8)) s.inv (s.cplAt (s.cfg.colourAddr x y))
    else Config.monoPixel s.cfg s.inv (pixelBit (s.curAt (s.cfg.cellAddr y (x / 8))) (x % 8)) := by
  rw [State.cellPixel, Nat.div_add_mod]

/-- Settles O46: no cell is skipped, and `(x, y)` is pixel `x % 8` of the cell `(y, x / 8)`. -/
theorem fullRefreshRedrawsEveryVisiblePixel : Obligations.FullRefreshRedrawsEveryVisiblePixel := by
  intro s hcfg hb hfull
  refine ⟨_, execRender_of_fbrdy hb, fun y hy x hx => ?_⟩
  obtain ⟨-, -, ⟨-, hvisW, -, -⟩, -⟩ := hcfg
  have hdrawn : s.skipped y (x / 8) = false :=
    State.skipped_eq_false_iff.2 fun ⟨_, hrf, hchroma⟩ => by simp [hrf, hchroma] at hfull
  have hwritten := State.get?_render_written hy (show x / 8 < s.cfg.visW / 8 by omega) hdrawn (Nat.mod_lt x (by decide))
  rw [Nat.div_add_mod, State.cellPixel_of_pixel] at hwritten
  exact hwritten

/-- Settles O43: the RENDER after an INVAL is a full pass (O46), and the one after it changes nothing (O45). -/
theorem renderClearsTheRefreshFlag : Obligations.RenderClearsTheRefreshFlag := by
  refine ⟨fun s hb => ⟨_, execRender_of_fbrdy hb, rfl⟩, fun s hcfg hb => ?_⟩
  obtain ⟨v, hv, hpixels⟩ := fullRefreshRedrawsEveryVisiblePixel { s with rf := true } hcfg hb (.inl rfl)
  have hclear : v.rf = false := by obtain ⟨-, rfl⟩ := execRender_next hv; rfl
  exact ⟨_, v, rfl, rfl, hv, hclear, hpixels, fun hchroma =>
    ⟨v, secondRenderOfSameFrameWritesNothing { s with rf := true } v hcfg hchroma hv, rfl⟩⟩

/-! The inverted picture (O47). -/

theorem State.cellPixel_of_mono {s : State} (hchroma : s.chroma = false) (y cx k : Nat) :
    s.cellPixel y cx k = Config.monoPixel s.cfg s.inv (pixelBit (s.curAt (s.cfg.cellAddr y cx)) k) := by
  simp [State.cellPixel, hchroma]

/-- With INV the other way a bit expands to the other one of PIX0 and PIX1 (41_screen_diff.md R182). -/
theorem Config.monoPixel_not (c : Config) (inv b : Bool) :
    (Config.monoPixel c inv b = c.pix0 ∧ Config.monoPixel c (!inv) b = c.pix1) ∨
      (Config.monoPixel c inv b = c.pix1 ∧ Config.monoPixel c (!inv) b = c.pix0) := by
  cases inv <;> cases b <;> simp [Config.monoPixel]

/-- Settles O47: INV is not read by the skip condition, so a pixel is written in both or in neither. -/
theorem invertComplementsEachWrittenPixel : Obligations.InvertComplementsEachWrittenPixel := by
  intro s t _ hchroma h
  obtain ⟨hb, rfl⟩ := execRender_next h
  refine ⟨_, execRender_of_fbrdy (s := { s with inv := !s.inv }) hb, fun p => ?_⟩
  by_cases hp : ∃ y < s.cfg.visH, ∃ cx < s.cfg.visW / 8, s.skipped y cx = false ∧
      ∃ k < 8, s.cfg.pixelAddr (8 * cx + k) y = p
  case pos =>
    obtain ⟨y, hy, cx, hcx, hdrawn, k, hk, rfl⟩ := hp
    have ht := State.get?_render_written hy hcx hdrawn hk
    have hu := State.get?_render_written (s := { s with inv := !s.inv }) hy hcx hdrawn hk
    rw [State.cellPixel_of_mono hchroma] at ht
    rw [State.cellPixel_of_mono (s := { s with inv := !s.inv }) hchroma] at hu
    obtain ⟨h0, h1⟩ | ⟨h1, h0⟩ := Config.monoPixel_not s.cfg s.inv (pixelBit (s.curAt (s.cfg.cellAddr y cx)) k)
    · exact .inr (.inl ⟨ht.trans (congrArg some h0), hu.trans (congrArg some h1)⟩)
    · exact .inr (.inr ⟨ht.trans (congrArg some h1), hu.trans (congrArg some h0)⟩)
  case neg =>
    have hkept : ∀ y < s.cfg.visH, ∀ cx < s.cfg.visW / 8, s.skipped y cx = false → ∀ k < 8,
        s.cfg.pixelAddr (8 * cx + k) y ≠ p :=
      fun y hy cx hcx hdrawn k hk he => hp ⟨y, hy, cx, hcx, hdrawn, k, hk, he⟩
    exact .inl ⟨State.get?_render_kept hkept, State.get?_render_kept (s := { s with inv := !s.inv }) hkept⟩

/-! What RENDER does not read: border bytes of CUR (O48), and the colour plane while chroma mode is off (O49). -/

/-- The value of a pixel depends on CUR through the byte of its own cell alone. -/
theorem State.cellPixel_congr_cur {s : State} {cur' : Memory Byte} {y cx : Nat}
    (h : State.curAt { s with cur := cur' } (s.cfg.cellAddr y cx) = s.curAt (s.cfg.cellAddr y cx)) :
    State.cellPixel { s with cur := cur' } y cx = s.cellPixel y cx := by
  funext k
  simp only [State.cellPixel, h]
  rfl

/-- The value of a pixel reads nothing that RENDER changes. -/
theorem State.cellPixel_rendered (s : State) : s.paint.rebaseline.clearRefresh.cellPixel = s.cellPixel := rfl

/-- Whether a cell is skipped depends on CUR through its own byte alone. -/
theorem State.skipped_congr_cur {s : State} {cur' : Memory Byte} {y cx : Nat}
    (h : State.curAt { s with cur := cur' } (s.cfg.cellAddr y cx) = s.curAt (s.cfg.cellAddr y cx)) :
    State.skipped { s with cur := cur' } y cx = s.skipped y cx := by
  simp only [State.skipped, h]
  rfl

/-- Settles O48: both RENDERs skip the same visible cells and expand the same bytes, and so do the next two, where a
visible cell is skipped by chroma mode alone (`State.skipped_rendered`). -/
theorem borderBytesAreNeverDrawn : Obligations.BorderBytesAreNeverDrawn := by
  intro s t cur' hcfg hcur h
  obtain ⟨hb, rfl⟩ := execRender_next h
  have hfirst : State.renderWrites { s with cur := cur' } = s.renderWrites :=
    State.renderWrites_congr rfl fun y hy cx hcx =>
      ⟨State.skipped_congr_cur (hcur y hy cx hcx), State.cellPixel_congr_cur (hcur y hy cx hcx)⟩
  have hpixout : (State.paint { s with cur := cur' }).pixout = s.paint.pixout :=
    congrArg (Memory.setAll s.pixout) hfirst
  refine ⟨_, execRender_of_fbrdy (s := { s with cur := cur' }) hb, hpixout, fun u hu => ?_⟩
  obtain ⟨-, rfl⟩ := execRender_next hu
  have hnext : (State.paint { s with cur := cur' }).rebaseline.clearRefresh.renderWrites =
      s.paint.rebaseline.clearRefresh.renderWrites := by
    refine State.renderWrites_congr rfl fun y hy cx hcx => ⟨?skipped, ?pixel⟩
    case skipped =>
      rw [State.skipped_rendered hcfg hy hcx]
      exact State.skipped_rendered (s := { s with cur := cur' }) hcfg hy hcx
    case pixel =>
      rw [State.cellPixel_rendered, State.cellPixel_rendered]
      exact State.cellPixel_congr_cur (hcur y hy cx hcx)
  exact ⟨_, execRender_of_fbrdy hb, congrArg₂ Memory.setAll hpixout hnext⟩

/-- Settles O49: with chroma off the value of a pixel reads no colour entry, and the skip condition never does. -/
theorem monochromeRenderIgnoresTheColourPlane : Obligations.MonochromeRenderIgnoresTheColourPlane := by
  intro s t cpl' hchroma h
  obtain ⟨hb, rfl⟩ := execRender_next h
  have hwrites : State.renderWrites { s with cpl := cpl' } = s.renderWrites := by
    refine State.renderWrites_congr rfl fun y _ cx _ => ⟨rfl, funext fun k => ?_⟩
    rw [State.cellPixel_of_mono hchroma]
    exact State.cellPixel_of_mono (s := { s with cpl := cpl' }) hchroma y cx k
  have hpaint : State.paint { s with cpl := cpl' } = { s.paint with cpl := cpl' } := by
    rw [State.paint, hwrites]; rfl
  have hready : State.fbrdy { s with cpl := cpl' } = true := hb
  rw [exec_render, execRender_of_fbrdy hready, hpaint]
  rfl

/-! INVAL (O50). -/

/-- Settles O50. -/
theorem invalidateSetsTheRefreshFlag : Obligations.InvalidateSetsTheRefreshFlag :=
  ⟨by decide, fun _ => ⟨rfl, rfl⟩⟩

end Sys2Proof.Machine

/-! Proofs for 42_key_matrix.md: what ENCODE latches (O51), the rows of no key and of one key (O52), which keys a row
depends on (O53) and a second ENCODE (O54). -/

namespace Sys2Proof.Machine

/-! The gate, and ENCODE by it. -/

/-- The gate by its two inputs (42_key_matrix.md R211). -/
theorem State.gateOpen_iff {s : State} : s.gateOpen = true ↔ s.active = true ∧ s.paused = false := by
  simp [State.gateOpen]

theorem exec_encode_of_active {s : State} (hactive : s.active = true) (hpaused : s.paused = false)
    (hkeys : s.cfg.keysInRange) : exec .encode s = .next s.encodeRows :=
  execEncode_of_gateOpen (State.gateOpen_iff.2 ⟨hactive, hpaused⟩) hkeys

/-! A slot, and a row by its slots. -/

/-- A slot is pressed by some key code of it (42_key_matrix.md R213). -/
theorem State.pressed_iff {s : State} {r : BitVec 3} {j : Nat} :
    s.pressed r j = true ↔ ∃ code ∈ s.cfg.slot r j, s.keyAt code = true := List.any_eq_true

theorem State.pressed_eq_false_iff {s : State} {r : BitVec 3} {j : Nat} :
    s.pressed r j = false ↔ ∀ code ∈ s.cfg.slot r j, s.keyAt code = false := by
  simp [State.pressed]

/-- What is read from a list of lists and has an element stands in the list. -/
theorem getD_nil_mem {α : Type} {l : List (List α)} {n : Nat} {x : α} (h : x ∈ l.getD n []) : l.getD n [] ∈ l := by
  rcases Nat.lt_or_ge n l.length with hn | hn
  · rw [List.getD_eq_getElem _ _ hn]
    exact List.getElem_mem hn
  · rw [List.getD_eq_default _ _ hn] at h
    exact absurd h List.not_mem_nil

/-- A code that a slot has is a code of the key map, so in range (00_scope.md R8). -/
theorem Config.lt_maxKeycodes_of_mem_slot {c : Config} (hc : c.keysInRange) {r : BitVec 3} {j code : Nat}
    (h : code ∈ c.slot r j) : code < c.maxKeycodes := by
  have hslot : c.slot r j ∈ c.keymap.getD r.toNat [] := getD_nil_mem h
  exact hc _ (getD_nil_mem hslot) _ hslot code h

/-- A byte with the bits of a row's pressed slots is the accumulator of that row. -/
theorem State.rowAccumulator_eq {s : State} {r : BitVec 3} {b : Byte}
    (h : ∀ j, b.getLsbD j = (decide (j < 5) && s.pressed r j)) : s.rowAccumulator r = b :=
  BitVec.eq_of_getLsbD_eq fun j _ => (s.rowAccumulator_bit r j).trans (h j).symm

theorem State.encodeRows_get (s : State) (r : BitVec 3) : s.encodeRows.kr.get r = rowOf (s.rowAccumulator r) :=
  Rows.get_ofFn _ r

/-- A row with no slot pressed (42_key_matrix.md R216 item 1). -/
theorem State.encodeRows_get_of_none {s : State} {r : BitVec 3} (h : ∀ j, s.pressed r j = false) :
    s.encodeRows.kr.get r = 0xFF#8 := by
  have hacc : s.rowAccumulator r = 0#8 := State.rowAccumulator_eq fun j => by simp [h j]
  rw [State.encodeRows_get, hacc]
  rfl

/-- A row with the slot of bit 0 alone pressed (42_key_matrix.md R216 item 2). -/
theorem State.encodeRows_get_of_first {s : State} {r : BitVec 3} (h : ∀ j, s.pressed r j = true ↔ j = 0) :
    s.encodeRows.kr.get r = 0xFE#8 := by
  have hacc : s.rowAccumulator r = 1#8 := State.rowAccumulator_eq fun j => by
    cases j with
    | zero => rw [(h 0).2 rfl]; rfl
    | succ j =>
      have hup : s.pressed r (j + 1) = false := Bool.eq_false_iff.2 fun hp => Nat.succ_ne_zero j ((h _).1 hp)
      simp [hup]
  rw [State.encodeRows_get, hacc]
  rfl

/-- Rows with the same slots pressed are the same byte (42_key_matrix.md R215). -/
theorem State.encodeRows_get_congr {s s' : State} {r : BitVec 3} (h : ∀ j < 5, s'.pressed r j = s.pressed r j) :
    s'.encodeRows.kr.get r = s.encodeRows.kr.get r := by
  have hacc : s'.rowAccumulator r = s.rowAccumulator r := State.rowAccumulator_eq fun j => by
    rw [State.rowAccumulator_bit]
    by_cases hj : j < 5
    · rw [h j hj]
    · simp [hj]
  rw [State.encodeRows_get, State.encodeRows_get, hacc]

/-! What ENCODE latches (O51), and the rows of no key and of one key (O52). -/

/-- Settles O51, by the row formula bit by bit. -/
theorem encodeLatchesTheKeysWhileTheGateIsOpen : Obligations.EncodeLatchesTheKeysWhileTheGateIsOpen := by
  refine ⟨by decide, fun s hclosed => ?closed, fun s hactive hpaused hkeys =>
    ⟨_, exec_encode_of_active hactive hpaused hkeys, fun r => ?row⟩⟩
  case closed => exact execEncode_of_gateClosed (Bool.eq_false_iff.2 (hclosed ∘ State.gateOpen_iff.1))
  case row =>
    rw [Rows.get_ofFn]
    refine ⟨rowOf_top _, fun j hj => ?_⟩
    rw [rowOf_bit _ hj, State.rowAccumulator_bit, ← State.pressed_iff]
    simp [hj]

/-- Settles O52: the one key presses slot (0, 0) and no other. -/
theorem noKeyAndOneKeyRows : Obligations.NoKeyAndOneKeyRows := by
  rintro s key hactive hpaused ⟨-, -, -, -, -, -, -, hkeys⟩
  have hencode := exec_encode_of_active hactive hpaused hkeys
  refine ⟨fun hnone => ⟨_, hencode, fun r =>
    State.encodeRows_get_of_none fun j => State.pressed_eq_false_iff.2 (hnone r j)⟩, fun hkey hmem honly => ?_⟩
  have honly_pressed {r : BitVec 3} {j : Nat} (hp : s.pressed r j = true) : r = 0#3 ∧ j = 0 := by
    obtain ⟨code, hcode, hdown⟩ := State.pressed_iff.1 hp
    obtain rfl := (hkey code (Config.lt_maxKeycodes_of_mem_slot hkeys hcode)).1 hdown
    exact honly r j hcode
  have hpressed : s.pressed 0#3 0 = true :=
    State.pressed_iff.2 ⟨key, hmem, (hkey key (Config.lt_maxKeycodes_of_mem_slot hkeys hmem)).2 rfl⟩
  refine ⟨_, hencode, State.encodeRows_get_of_first fun j => ?first,
    fun r hr => State.encodeRows_get_of_none fun j => ?other⟩
  case first => exact ⟨fun hp => (honly_pressed hp).2, fun hj => hj ▸ hpressed⟩
  case other => exact Bool.eq_false_iff.2 fun hp => hr (honly_pressed hp).1

/-! Which keys a row depends on (O53), and a second ENCODE (O54). -/

theorem State.pressed_congr_keystate {s : State} {keys : Memory Bool} {r : BitVec 3} {j : Nat}
    (h : ∀ code ∈ s.cfg.slot r j, State.keyAt { s with keystate := keys } code = s.keyAt code) :
    State.pressed { s with keystate := keys } r j = s.pressed r j := by
  rw [Bool.eq_iff_iff, State.pressed_iff, State.pressed_iff]
  exact exists_congr fun code => and_congr_right fun hcode => by rw [h code hcode]

/-- Settles O53: the gate does not read KEYSTATE, so both ENCODEs latch the rows or both leave them. -/
theorem rowDependsOnItsOwnSlots : Obligations.RowDependsOnItsOwnSlots := by
  intro s t t' keys r hslots h h'
  obtain ⟨hopen, hkeys, rfl⟩ | ⟨hclosed, rfl⟩ := execEncode_next h
  · cases (execEncode_of_gateOpen (s := { s with keystate := keys }) hopen hkeys).symm.trans h'
    exact State.encodeRows_get_congr fun j hj => State.pressed_congr_keystate (hslots j hj)
  · cases (execEncode_of_gateClosed (s := { t with keystate := keys }) hclosed).symm.trans h'
    rfl

/-- Settles O54: ENCODE changes neither the gate nor the keys. -/
theorem encodeIsIdempotent : Obligations.EncodeIsIdempotent := by
  intro s t h
  obtain ⟨hopen, hkeys, rfl⟩ | ⟨-, rfl⟩ := execEncode_next h
  · exact execEncode_of_gateOpen (s := s.encodeRows) hopen hkeys
  · exact h

end Sys2Proof.Machine

/-! Proofs for 60_exceptions.md: the invariant (O14), pause and disable (O22), the refusal mark (O58), a placed
word (O6), RESET (O12) and key codes out of range (O19). -/

namespace Sys2Proof.Machine

/-! A space stays canonical and within its bounds under every kind of write (20_memory.md R60). -/

section
variable {α : Type} {size : Nat} {m : Memory α}

theorem Memory.within_set (h : Memory.within size m) {a : Nat} (ha : a < size) (v : α) :
    Memory.within size (Memory.set m a v) := by
  refine ⟨Memory.wf_set h.1 a v, fun c hc => ?_⟩
  obtain rfl | hc := Memory.mem_set hc
  · exact ha
  · exact h.2 c hc

theorem Memory.within_setRun (h : Memory.within size m) {a : Nat} {vs : List α} (ha : a + vs.length ≤ size) :
    Memory.within size (Memory.setRun m a vs) := by
  refine ⟨Memory.wf_setRun h.1 a vs, fun c hc => ?_⟩
  obtain ⟨-, hlt⟩ | hc := Memory.mem_setRun hc
  · exact hlt.trans_le ha
  · exact h.2 c hc

theorem Memory.within_setAll (h : Memory.within size m) {ws : List (Nat × α)} (hws : ∀ w ∈ ws, w.1 < size) :
    Memory.within size (Memory.setAll m ws) :=
  ⟨Memory.wf_setAll h.1 ws, fun c hc => (Memory.mem_setAll hc).elim (hws c) (h.2 c)⟩

theorem Memory.within_tabulate (size : Nat) (f : Nat → α) : Memory.within size (Memory.tabulate size f) :=
  ⟨Memory.wf_tabulate size f, fun _ => Memory.lt_of_mem_tabulate⟩

/-- A space that is as it was or holds nothing is within the bounds it was in. -/
theorem Memory.within_of_nil_or_eq {m' : Memory α} (h : Memory.within size m) (hm : m' = [] ∨ m' = m) :
    Memory.within size m' := by
  obtain rfl | rfl := hm
  · exact Memory.within_nil size
  · exact h

end

/-! The ring: PUSH and PULL keep it within its bounds and every resident slot written (10_state.md R21). -/

/-- The loop of PUSH writes slots of the ring alone. -/
theorem State.within_ring_pushAll {s : State} (hc : s.CursorsOk) (h : Memory.within s.cfg.n s.ring)
    (vs : List Sample) : Memory.within s.cfg.n (s.pushAll vs).ring := by
  induction vs generalizing s with
  | nil => exact h
  | cons v vs ih =>
    have heq := State.push1_eq hc v
    have hring : Memory.within (s.push1 v).cfg.n (s.push1 v).ring := by
      rw [heq]; exact Memory.within_set h hc.2 v
    have hcfg : (s.push1 v).cfg = s.cfg := by rw [heq]
    rw [← hcfg]
    exact ih (hc.push1 v) hring

/-- Every resident slot has been written (10_state.md R21). -/
def State.ResidentWritten (s : State) : Prop :=
  ∀ j < s.ringSize, (s.ring.get? ((s.startCur + j) % s.cfg.n)).isSome

/-- An empty ring has no resident slot. -/
theorem State.residentWritten_of_empty {s : State} (hc : s.CursorsOk) (hempty : s.endCur = s.startCur) :
    s.ResidentWritten := fun j hj => by
  rw [(State.ringSize_eq_zero hc).2 hempty] at hj
  exact absurd hj (Nat.not_lt_zero j)

/-- A resident slot after `push1` is the slot just written or was resident before (40_audio_ring.md R142). -/
theorem State.ResidentWritten.push1 {s : State} (hc : s.CursorsOk) (h : s.ResidentWritten) (v : Sample) :
    (s.push1 v).ResidentWritten := by
  intro j hj
  rw [State.ringSize_push1 hc] at hj
  rw [State.push1_eq hc]
  simp only [Nat.mod_add_mod, Memory.get?_set]
  split
  · rfl
  · rename_i hother
    rw [Nat.add_assoc] at hother ⊢
    refine h _ (Nat.lt_of_le_of_ne ?_ fun hlast => hother ?_)
    · omega
    · rw [hlast]; exact State.start_add_ringSize hc

theorem State.ResidentWritten.pushAll {s : State} (hc : s.CursorsOk) (h : s.ResidentWritten) (vs : List Sample) :
    (s.pushAll vs).ResidentWritten := by
  induction vs generalizing s with
  | nil => exact h
  | cons v vs ih => exact ih (hc.push1 v) (h.push1 hc v)

/-- What remains resident behind the read cursor was resident before. -/
theorem State.ResidentWritten.advanced {s t : State} {d : Nat} (hc : s.CursorsOk) (h : s.ResidentWritten)
    (hd : d ≤ s.ringSize) (hcfg : t.cfg = s.cfg) (hring : t.ring = s.ring)
    (hstart : t.startCur = (s.startCur + d) % s.cfg.n) (hend : t.endCur = s.endCur) : t.ResidentWritten := by
  intro j hj
  rw [State.ringSize_advanced hc hd hcfg hstart hend] at hj
  rw [hring, hstart, hcfg, Nat.mod_add_mod, Nat.add_assoc]
  exact h (d + j) (by omega)

/-- The device obtains at least one channel (40_audio_ring.md R140). -/
theorem channelsOf_ne_zero (c : Fin 7) : channelsOf c ≠ 0#3 := by revert c; decide

/-! Every command that completes keeps each part of the invariant (O14). -/

/-- A command that completes writes no index outside a space (20_memory.md R72). -/
theorem exec_keeps_spacesOk {i : Instr} {s t : State} (hc : s.CursorsOk) (hs : s.SpacesOk) (h : exec i s = .next t) :
    t.SpacesOk := by
  cases i with
  | openReq rate ch fmt =>
    obtain ⟨_, _, _, _, rfl | ⟨_, _, rfl⟩⟩ := execOpen_next h
    · exact { hs with }
    · exact { hs with }
  | push samples =>
    have ho := (execPush_next h).1
    rw [exec_push_eq ho] at h
    cases h
    have hring := State.within_ring_pushAll hc hs.ring samples
    obtain ⟨_, _, _, _, hp⟩ := s.pushAll_frame samples
    rw [hp] at hring ⊢
    exact { hs with ring := hring }
  | pull n =>
    have ho := (execPull_next h).1
    rw [exec_pull_eq hc ho n] at h
    cases h
    have hfit : 0 + (s.pulledBytes n).length ≤ 2 ^ 24 - 1 := by
      have := s.deliveredCount_mul_frameSize_le n
      rw [State.length_pulledBytes]
      omega
    exact { hs with outbuf := Memory.within_setRun hs.outbuf hfit }
  | close => obtain ⟨_, rfl⟩ := execClose_next h; exact { hs with }
  | rdovf => cases h; exact { hs with }
  | render =>
    obtain ⟨_, rfl⟩ := execRender_next h
    have hdrawn : ∀ w ∈ s.renderWrites, w.1 < Space.size s.cfg .pixout := by
      intro w hw
      obtain ⟨y, hy, cx, hcx, _, k, hk, rfl⟩ := State.mem_renderWrites.1 hw
      exact Config.pixelAddr_lt hy hcx hk
    exact { hs with prev := Memory.within_tabulate _ _, pixout := Memory.within_setAll hs.pixout hdrawn }
  | inval => cases h; exact { hs with }
  | encode =>
    obtain ⟨_, _, rfl⟩ | ⟨_, rfl⟩ := execEncode_next h
    · exact { hs with }
    · exact hs
  | rdrow row => cases h; exact { hs with }

/-- A command that completes keeps what the spec says of unit A; PUSH and PULL by the closed forms of their loops. -/
theorem exec_keeps_audioOk {i : Instr} {s t : State} (hs : s.AudioOk) (h : exec i s = .next t) : t.AudioOk := by
  have hc := hs.cursorsOk
  cases i with
  | openReq rate ch fmt =>
    obtain ⟨_, _, _, _, rfl | ⟨c, _, rfl⟩⟩ := execOpen_next h
    · exact { hs with }
    · exact { hs with channels := fun _ => channelsOf_ne_zero c, idle_empty := nofun }
  | push samples =>
    have ho := (execPush_next h).1
    rw [exec_push_eq ho] at h
    cases h
    obtain ⟨hstart, hend⟩ := hc.pushAll samples
    obtain ⟨hastate, hoch, -⟩ := s.pushAll_keeps_format samples
    exact {
      start_lt := hstart
      end_lt := hend
      written := State.ResidentWritten.pushAll hc hs.written samples
      lock_free := rfl
      channels := fun _ => hoch ▸ hs.channels ho
      idle_empty := fun hidle => nomatch (hastate.trans ho).symm.trans hidle }
  | pull n =>
    have ho := (execPull_next h).1
    have hcur := exec_keeps_cursorsOk hc h
    rw [exec_pull_eq hc ho n] at h
    cases h
    exact {
      start_lt := hcur.1
      end_lt := hcur.2
      written := State.ResidentWritten.advanced hc hs.written (min_le_right _ _) rfl rfl rfl rfl
      lock_free := rfl
      channels := hs.channels
      idle_empty := fun hidle => nomatch ho.symm.trans hidle }
  | close => obtain ⟨_, rfl⟩ := execClose_next h; exact { hs with channels := nofun, idle_empty := nofun }
  | rdovf => cases h; exact { hs with }
  | render => obtain ⟨_, rfl⟩ := execRender_next h; exact { hs with }
  | inval => cases h; exact { hs with }
  | encode =>
    obtain ⟨_, _, rfl⟩ | ⟨_, rfl⟩ := execEncode_next h
    · exact { hs with }
    · exact hs
  | rdrow row => cases h; exact { hs with }

/-- Only RENDER clears the refresh flag, and it specifies all of PREV (10_state.md R30, R33). -/
theorem exec_keeps_prevOk {i : Instr} {s t : State} (hs : s.PrevOk) (h : exec i s = .next t) : t.PrevOk := by
  cases i with
  | render =>
    obtain ⟨_, rfl⟩ := execRender_next h
    intro _ a ha
    exact Option.isSome_of_eq_some (s.paint.get?_rebaseline_prev ha)
  | inval => cases h; exact nofun
  | openReq | push | pull | close | rdovf | encode | rdrow =>
    obtain ⟨_, _, _, _, _, hrender, hrf, _⟩ := eachCellIsWrittenOnlyByItsCommands _ s t h
    rw [State.PrevOk, (hrender nofun).1, hrf nofun nofun, exec_keeps_cfg h]
    exact hs

/-- Only ENCODE writes rows, with bits 7:5 set (42_key_matrix.md R212). -/
theorem exec_keeps_rowsOk {i : Instr} {s t : State} (hs : s.RowsOk) (h : exec i s = .next t) : t.RowsOk := by
  cases i with
  | encode =>
    obtain ⟨_, _, rfl⟩ | ⟨_, rfl⟩ := execEncode_next h
    · intro r; rw [State.encodeRows_get]; exact rowOf_top _
    · exact hs
  | openReq | push | pull | close | rdovf | render | inval | rdrow =>
    obtain ⟨_, _, _, _, _, _, _, hkr, _⟩ := eachCellIsWrittenOnlyByItsCommands _ s t h
    rw [State.RowsOk, hkr nofun]
    exact hs

/-- A command that completes keeps the invariant. -/
theorem exec_keeps_inv {i : Instr} {s t : State} (hs : s.Inv) (hm : s.mark = none) (h : exec i s = .next t) :
    t.Inv where
  params := exec_keeps_cfg h ▸ hs.params
  spaces := exec_keeps_spacesOk (hs.audio hm).cursorsOk hs.spaces h
  audio _ := exec_keeps_audioOk (hs.audio hm) h
  prev _ := exec_keeps_prevOk (hs.prev hm) h
  rows _ := exec_keeps_rowsOk (hs.rows hm) h

/-! Every turn that starts no command keeps the invariant, and so does a violation. -/

/-- After a violation nothing is said of the block's cells, and its spaces list nothing (60_exceptions.md R245). -/
theorem State.Inv.violate {s : State} (hs : s.Inv) (r : Refusal) : (s.violate r).Inv where
  params := hs.params
  spaces := { hs.spaces with
    ring := Memory.within_nil _, outbuf := Memory.within_nil _, prev := Memory.within_nil _
    pixout := Memory.within_nil _ }
  audio := nofun
  prev := nofun
  rows := nofun

/-- A checked write names an index the space has. -/
theorem State.lt_of_checked_ok {s t u : State} {space : Space} {a : Nat} (h : s.checked space a t = .ok u) :
    a < Space.size s.cfg space := by
  unfold State.checked at h
  split at h
  · assumption
  · cases h

/-- What the agents write between two commands: their memories, the level inputs, the ports and the schedule, and no
cell that does not exist (10_state.md R20, 20_memory.md R60). -/
structure State.AgentWrote (s t : State) : Prop where
  block : { t with
    outbuf := s.outbuf, cur := s.cur, cpl := s.cpl, pixout := s.pixout, inv := s.inv, chroma := s.chroma
    fbrdy := s.fbrdy, keystate := s.keystate, active := s.active, paused := s.paused, portP := s.portP
    portC := s.portC, turns := s.turns } = s
  spaces : s.SpacesOk → t.SpacesOk

theorem State.AgentWrote.trans {s t u : State} (h : s.AgentWrote t) (h' : t.AgentWrote u) : s.AgentWrote u := by
  refine ⟨?_, h'.spaces ∘ h.spaces⟩
  have hblock := h.block
  rw [← h'.block] at hblock
  exact hblock

theorem State.AgentWrote.mark {s t : State} (h : s.AgentWrote t) : t.mark = s.mark :=
  (congrArg State.mark h.block :)

/-- The invariant says nothing of what the agents write, but that their spaces have its cells. -/
theorem State.AgentWrote.inv {s t : State} (h : s.AgentWrote t) (hs : s.Inv) : t.Inv := by
  have hspaces := h.spaces hs.spaces
  rw [← h.block] at hs
  exact {
    params := hs.params
    spaces := hspaces
    audio := fun hm => { hs.audio hm with }
    prev := hs.prev
    rows := hs.rows }

theorem State.agentWrote_ports (s : State) (turns : List Turn) (itemsP : List (PortItem EnvAction))
    (itemsC : List (PortItem DevAction)) :
    s.AgentWrote { s with turns := turns, portP := itemsP, portC := itemsC } :=
  ⟨rfl, fun hs => { hs with }⟩

/-- An action of agent P's context writes an existing cell of one space, or a level input. -/
theorem State.agentWrote_envAct {s t : State} {a : EnvAction} (h : s.envAct a = .ok t) : s.AgentWrote t := by
  cases a with
  | cur a v =>
    have ha := State.lt_of_checked_ok h
    rw [State.checked_ok h]
    exact ⟨rfl, fun hs => { hs with cur := Memory.within_set hs.cur ha v }⟩
  | cpl a v =>
    have ha := State.lt_of_checked_ok h
    rw [State.checked_ok h]
    exact ⟨rfl, fun hs => { hs with cpl := Memory.within_set hs.cpl ha v }⟩
  | key k b =>
    have hk := State.lt_of_checked_ok h
    rw [State.checked_ok h]
    exact ⟨rfl, fun hs => { hs with keystate := Memory.within_set hs.keystate hk b }⟩
  | input name b => cases h; cases name <;> exact ⟨rfl, fun hs => { hs with }⟩
  | pix p v =>
    have hp := State.lt_of_checked_ok h
    rw [State.checked_ok h]
    exact ⟨rfl, fun hs => { hs with pixout := Memory.within_set hs.pixout hp v }⟩

/-- An action of the device writes an existing byte of OUTBUF. -/
theorem State.agentWrote_devAct {s t : State} {a : DevAction} (h : s.devAct a = .ok t) : s.AgentWrote t := by
  cases a with
  | out a v =>
    have ha := State.lt_of_checked_ok h
    rw [State.checked_ok h]
    exact ⟨rfl, fun hs => { hs with outbuf := Memory.within_set hs.outbuf ha v }⟩

/-- A turn of agent P hands on what that agent wrote, the items of a command or violation taken off its port. -/
theorem State.agentWrote_fetchP {s t : State} (h : s.fetchP.state? = some t) : s.AgentWrote t := by
  have hport (rest : List (PortItem EnvAction)) : s.AgentWrote { s with portP := rest } :=
    s.agentWrote_ports s.turns rest s.portC
  obtain hf | ⟨_, rest, _, hf⟩ | ⟨_, _, hf⟩ | ⟨_, rest, _, _, _, _, _, hf⟩ | ⟨_, rest, _, _, _, _, hf⟩ :=
    s.fetchP_cases
  all_goals rw [hf] at h
  · cases h; exact hport s.portP
  · have hact := Fetched.state?_ofAction h
    exact (hport rest).trans (State.agentWrote_envAct hact)
  · cases h
  · cases h; exact hport rest
  · cases h; exact hport rest

/-- A turn of agent C hands on what that agent wrote, the items of a command or violation taken off its port. -/
theorem State.agentWrote_fetchC {s t : State} (h : s.fetchC.state? = some t) : s.AgentWrote t := by
  have hport (rest : List (PortItem DevAction)) : s.AgentWrote { s with portC := rest } :=
    s.agentWrote_ports s.turns s.portP rest
  obtain hf | ⟨_, rest, _, hf⟩ | ⟨_, _, hf⟩ | ⟨_, rest, _, _, _, _, _, hf⟩ | ⟨_, rest, _, _, _, _, hf⟩ :=
    s.fetchC_cases
  all_goals rw [hf] at h
  · cases h; exact hport s.portC
  · have hact := Fetched.state?_ofAction h
    exact (hport rest).trans (State.agentWrote_devAct hact)
  · cases h
  · cases h; exact hport rest
  · cases h; exact hport rest

/-! RESET gives the block its reset values, which meet the invariant. -/

theorem State.resetBlock_blockIsReset (s : State) : s.resetBlock.BlockIsReset :=
  ⟨rfl, rfl, rfl, rfl, rfl, rfl, Rows.get_reset, rfl, rfl, rfl⟩

/-- A reset block meets the invariant whatever of the device's cells RESET has taken the values from. -/
theorem State.BlockIsReset.inv {s t : State} (h : t.BlockIsReset) (hs : s.Inv) (hsame : s.SameSurroundings t)
    (hout : t.outbuf = [] ∨ t.outbuf = s.outbuf) (hpix : t.pixout = [] ∨ t.pixout = s.pixout) : t.Inv := by
  have hcfg := hsame.cfg
  have hparams : t.cfg.wf := hcfg ▸ hs.params
  have hn : 0 < t.cfg.n := Nat.lt_of_lt_of_le Nat.zero_lt_two hparams.1
  have hcursors : t.CursorsOk := ⟨h.start ▸ hn, h.fin ▸ hn⟩
  exact {
    params := hparams
    spaces := {
      ring := h.ring ▸ Memory.within_nil _
      outbuf := Memory.within_of_nil_or_eq hs.spaces.outbuf hout
      cur := by rw [hsame.cur, hcfg]; exact hs.spaces.cur
      prev := h.prev ▸ Memory.within_nil _
      cpl := by rw [hsame.cpl, hcfg]; exact hs.spaces.cpl
      pixout := by rw [hcfg]; exact Memory.within_of_nil_or_eq hs.spaces.pixout hpix
      keystate := by rw [hsame.keystate, hcfg]; exact hs.spaces.keystate }
    audio := fun _ => {
      start_lt := hcursors.1
      end_lt := hcursors.2
      written := State.residentWritten_of_empty hcursors (h.fin.trans h.start.symm)
      lock_free := h.lock
      channels := fun ho => nomatch h.astate.symm.trans ho
      idle_empty := fun _ => ⟨h.start, h.fin⟩ }
    prev := fun _ hrf => nomatch h.rf.symm.trans hrf
    rows := fun _ r => by rw [h.rows r]; rfl }

theorem State.Inv.driveReset {s : State} (hs : s.Inv) (level : Bool) : (s.driveReset level).Inv := by
  obtain ⟨_, _, h⟩ | ⟨_, p, h⟩ := s.driveReset_cases level
  · rw [h]; exact hs
  · rw [h]
    exact State.BlockIsReset.inv { s.resetBlock_blockIsReset with } hs
      ⟨rfl, rfl, rfl, rfl, rfl, rfl, rfl, rfl, rfl, rfl⟩ (.inr rfl) (.inr rfl)

theorem State.Inv.cut {s : State} (hs : s.Inv) (onP onC : Bool) : (s.cut onP onC).Inv := by
  obtain ⟨_, _, _, _, _, _, _, hout, hpix, h⟩ := s.cut_frame onP onC
  rw [h]
  exact State.BlockIsReset.inv { s.resetBlock_blockIsReset with } hs
    ⟨rfl, rfl, rfl, rfl, rfl, rfl, rfl, rfl, rfl, rfl⟩ hout hpix

/-! A turn by the schedule, and which turns meet a command or violation. -/

/-- The turn starts a command, or takes off an item that is no command. -/
def Fetched.meetsItem : Fetched → Bool
  | .command _ _ | .violation _ _ => true
  | .quiet _ | .fault _ | .refused _ => false

theorem Fetched.meetsItem_ofAction (x : Except Fault State) : (Fetched.ofAction x).meetsItem = false := by
  cases x <;> rfl

/-- Agent P's turn meets a command or violation only while no refusal mark stands (60_exceptions.md R245). -/
theorem State.mark_of_fetchP_meetsItem {s : State} (h : s.fetchP.meetsItem = true) : s.mark = none := by
  obtain hf | ⟨_, _, _, hf⟩ | ⟨_, _, hf⟩ | ⟨_, _, _, hm, _⟩ | ⟨_, _, hm, _⟩ := s.fetchP_cases
  · rw [hf] at h; cases h
  · rw [hf, Fetched.meetsItem_ofAction] at h; cases h
  · rw [hf] at h; cases h
  · exact hm
  · exact hm

/-- Agent C's turn meets a command or violation only while no refusal mark stands (60_exceptions.md R245). -/
theorem State.mark_of_fetchC_meetsItem {s : State} (h : s.fetchC.meetsItem = true) : s.mark = none := by
  obtain hf | ⟨_, _, _, hf⟩ | ⟨_, _, hf⟩ | ⟨_, _, _, hm, _⟩ | ⟨_, _, hm, _⟩ := s.fetchC_cases
  · rw [hf] at h; cases h
  · rw [hf, Fetched.meetsItem_ofAction] at h; cases h
  · rw [hf] at h; cases h
  · exact hm
  · exact hm

theorem State.fetch_of_rst {s : State} {turns : List Turn} {level : Bool} (h : s.turns = .rst level :: turns) :
    s.fetch = .quiet (State.driveReset { s with turns := turns } level) := by
  simp only [State.fetch, h]

theorem State.fetch_of_rstDuring {s : State} {turns : List Turn} {onP onC : Bool}
    (h : s.turns = .rstDuring onP onC :: turns) :
    s.fetch = .quiet (State.cut { s with turns := turns } onP onC) := by
  simp only [State.fetch, h]

/-- What a turn by the schedule hands on: what an agent wrote, or a state in which RESET has acted. -/
theorem State.fetch_cases {s t : State} (h : s.fetch.state? = some t) :
    (s.AgentWrote t ∧ (s.fetch.meetsItem = true → s.mark = none)) ∨
    (∃ level turns, s.turns = .rst level :: turns ∧ s.fetch = .quiet t ∧
      t = State.driveReset { s with turns := turns } level) ∨
    (∃ onP onC turns, s.turns = .rstDuring onP onC :: turns ∧ s.fetch = .quiet t ∧
      t = State.cut { s with turns := turns } onP onC) := by
  have hturns (turns : List Turn) : s.AgentWrote { s with turns := turns } :=
    s.agentWrote_ports turns s.portP s.portC
  cases hturn : s.turns with
  | nil =>
    have hf : s.fetch = .quiet s := by simp only [State.fetch, hturn]
    rw [hf] at h ⊢
    cases h
    exact .inl ⟨hturns s.turns, nofun⟩
  | cons a turns =>
    cases a with
    | P =>
      rw [State.fetch_of_turnP hturn] at h ⊢
      exact .inl ⟨(hturns turns).trans (State.agentWrote_fetchP h), State.mark_of_fetchP_meetsItem⟩
    | C =>
      rw [State.fetch_of_turnC hturn] at h ⊢
      exact .inl ⟨(hturns turns).trans (State.agentWrote_fetchC h), State.mark_of_fetchC_meetsItem⟩
    | rst level =>
      have hf := State.fetch_of_rst hturn
      rw [hf] at h ⊢
      cases h
      exact .inr (.inl ⟨level, turns, rfl, rfl, rfl⟩)
    | rstDuring onP onC =>
      have hf := State.fetch_of_rstDuring hturn
      rw [hf] at h ⊢
      cases h
      exact .inr (.inr ⟨onP, onC, turns, rfl, rfl, rfl⟩)

/-- Every turn hands on a state that meets the invariant. -/
theorem State.Inv.fetch {s t : State} (hs : s.Inv) (h : s.fetch.state? = some t) : t.Inv := by
  obtain ⟨hwrote, _⟩ | ⟨level, turns, _, _, rfl⟩ | ⟨onP, onC, turns, _, _, rfl⟩ := State.fetch_cases h
  · exact hwrote.inv hs
  · exact ((s.agentWrote_ports turns s.portP s.portC).inv hs).driveReset level
  · exact ((s.agentWrote_ports turns s.portP s.portC).inv hs).cut onP onC

/-- A command or violation is met, and handed on, in a state without a refusal mark (60_exceptions.md R245). -/
theorem State.mark_of_fetch_meetsItem {s u : State} (hmeets : s.fetch.meetsItem = true)
    (hu : s.fetch.state? = some u) : s.mark = none ∧ u.mark = none := by
  obtain ⟨hwrote, hm⟩ | ⟨_, _, _, hf, _⟩ | ⟨_, _, _, _, hf, _⟩ := State.fetch_cases hu
  · exact ⟨hm hmeets, hwrote.mark.trans (hm hmeets)⟩
  · rw [hf] at hmeets; cases hmeets
  · rw [hf] at hmeets; cases hmeets

/-- Settles O14: the turn hands on a state that meets the invariant (`State.Inv.fetch`), in which a command that
completes keeps it (`exec_keeps_inv`) and a violation does too (`State.Inv.violate`). -/
theorem stepKeepsTheInvariant : Obligations.StepKeepsTheInvariant := by
  intro s t hs h
  obtain hf | ⟨i, u, hf, hi⟩ | ⟨r, u, hf, rfl⟩ := step_next h
  · exact hs.fetch (by rw [hf]; rfl)
  · have hu : u.Inv := hs.fetch (by rw [hf]; rfl)
    obtain ⟨-, hm⟩ := State.mark_of_fetch_meetsItem (u := u) (by rw [hf]; rfl) (by rw [hf]; rfl)
    obtain hex | ⟨r, -, rfl⟩ := hi
    · exact exec_keeps_inv hu hm hex
    · exact hu.violate r
  · have hu : u.Inv := hs.fetch (by rw [hf]; rfl)
    exact hu.violate r

/-! Pause and disable (O22). -/

/-- The two inputs of the gate driven to the given levels (60_exceptions.md R254). -/
def State.setGate (s : State) (active paused : Bool) : State := { s with active := active, paused := paused }

theorem State.push1_setGate (s : State) (active paused : Bool) (v : Sample) :
    (s.setGate active paused).push1 v = (s.push1 v).setGate active paused := by
  have hmeet : ((s.setGate active paused).writeSlot v).cursorsMeet = (s.writeSlot v).cursorsMeet := rfl
  simp only [State.push1, hmeet]
  split <;> rfl

theorem State.pushAll_setGate (s : State) (active paused : Bool) (vs : List Sample) :
    (s.setGate active paused).pushAll vs = (s.pushAll vs).setGate active paused := by
  induction vs generalizing s with
  | nil => rfl
  | cons v vs ih => rw [State.pushAll_cons, State.push1_setGate, ih, ← State.pushAll_cons]

theorem PassesPull.setGate (active paused : Bool) : PassesPull (State.setGate · active paused) where
  astate _ := rfl
  framesFor _ _ := rfl
  cursorsMeet _ := rfl
  acquire _ _ := rfl
  deliver _ _ := rfl

theorem State.dropAnswer_setGate (s : State) (active paused : Bool) :
    (s.setGate active paused).dropAnswer = s.dropAnswer.setGate active paused := by
  have hanswers : (s.setGate active paused).devAnswers = s.devAnswers := rfl
  cases h : s.devAnswers <;> simp only [State.dropAnswer, hanswers, h] <;> rfl

theorem State.takeAnswer_setGate (s : State) (active paused : Bool) (a : DevAnswer) :
    (s.setGate active paused).takeAnswer a = (s.takeAnswer a).setGate active paused := by
  cases a <;> rfl

/-- A command other than ENCODE that completes does the same whatever the gate's inputs are (60_exceptions.md R254). -/
theorem exec_setGate {i : Instr} {s t : State} (active paused : Bool) (hi : i ≠ .encode) (h : exec i s = .next t) :
    exec i (s.setGate active paused) = .next (t.setGate active paused) := by
  cases i with
  | openReq rate ch fmt =>
    obtain ⟨hidle, hch, -⟩ := execOpen_next h
    rw [exec_openReq_of_idle hidle hch] at h
    cases h
    rw [exec_openReq_of_idle (s := s.setGate active paused) hidle hch, State.dropAnswer_setGate,
      State.takeAnswer_setGate]
    rfl
  | push samples =>
    have ho := (execPush_next h).1
    rw [exec_push_eq ho] at h
    cases h
    rw [exec_push_eq (s := s.setGate active paused) ho, State.pushAll_setGate]
    rfl
  | pull n => exact (PassesPull.setGate active paused).commutes h
  | close => obtain ⟨ho, rfl⟩ := execClose_next h; exact execClose_of_opened (s := s.setGate active paused) ho
  | rdovf => cases h; rfl
  | render => obtain ⟨hb, rfl⟩ := execRender_next h; exact execRender_of_fbrdy (s := s.setGate active paused) hb
  | inval => cases h; rfl
  | encode => exact absurd rfl hi
  | rdrow row => cases h; rfl

/-- Settles O22: either input closes the gate, and no other command reads or writes them (`exec_setGate`). -/
theorem pauseAffectsEncodeAlone : Obligations.PauseAffectsEncodeAlone := by
  refine ⟨fun s hclosed => execEncode_of_gateClosed ?_, fun _ _ _ active paused => exec_setGate active paused⟩
  obtain h | h := hclosed
  · rw [State.gateOpen, h]; rfl
  · rw [State.gateOpen, h]; exact Bool.and_false _

/-! The refusal mark (O58). -/

/-- A turn that meets nothing keeps the refusal mark, unless RESET acts in it (60_exceptions.md R245). -/
theorem State.fetch_quiet_mark {s t : State} (h : s.fetch = .quiet t) : t.mark = s.mark ∨ (t.mark = none ∧
    ((∃ rest, s.turns = .rst true :: rest) ∨ (∃ onP onC rest, s.turns = .rstDuring onP onC :: rest) ∨
      (s.resetIn = true ∧ ∃ rest, s.turns = .rst false :: rest))) := by
  obtain ⟨hwrote, _⟩ | ⟨level, turns, hturn, _, rfl⟩ | ⟨onP, onC, turns, hturn, _, rfl⟩ :=
    State.fetch_cases (s := s) (t := t) (by rw [h]; rfl)
  · exact .inl hwrote.mark
  · obtain ⟨_, _, hd⟩ | ⟨hevent, _, hd⟩ := State.driveReset_cases { s with turns := turns } level
    · rw [hd]; exact .inl rfl
    · rw [hd]
      cases level with
      | true => exact .inr ⟨rfl, .inl ⟨turns, hturn⟩⟩
      | false => exact .inr ⟨rfl, .inr (.inr ⟨hevent.resolve_left nofun, turns, hturn⟩)⟩
  · exact .inr ⟨rfl, .inr (.inl ⟨onP, onC, turns, hturn⟩)⟩

/-- Under the refusal mark a command word at the front of port P is refused. -/
theorem State.fetchP_of_marked {s : State} {r : Refusal} {w : Word} {rest : List (PortItem EnvAction)}
    (hm : s.mark = some r) (hr : s.resetIn = false) (hport : s.portP = .word w :: rest) : s.fetchP = .refused r := by
  simp [State.fetchP, hport, hr, hm]

/-- Under the refusal mark a command word at the front of port C is refused. -/
theorem State.fetchC_of_marked {s : State} {r : Refusal} {w : Word} {rest : List (PortItem DevAction)}
    (hm : s.mark = some r) (hr : s.resetIn = false) (hport : s.portC = .word w :: rest) : s.fetchC = .refused r := by
  simp [State.fetchC, hport, hr, hm]

theorem step_of_refused {s : State} {r : Refusal} (h : s.fetch = .refused r) : step s = .refused r := by
  rw [step, h]

/-- Settles O58: a turn under the mark meets no command and no violation (`State.mark_of_fetch_meetsItem`), and a quiet
one keeps the mark but for RESET (`State.fetch_quiet_mark`). -/
theorem refusalMarkStandsUntilReset : Obligations.RefusalMarkStandsUntilReset := by
  refine ⟨fun s t r hm h => ?kept, fun s r turns w rest hm hturn hr hport => ?onP,
    fun s r turns w rest hm hturn hr hport => ?onC⟩
  case kept =>
    obtain hf | ⟨i, u, hf, _⟩ | ⟨r', u, hf, _⟩ := step_next h
    · exact hm ▸ State.fetch_quiet_mark hf
    all_goals
      obtain ⟨hnone, -⟩ := State.mark_of_fetch_meetsItem (s := s) (u := u) (by rw [hf]; rfl) (by rw [hf]; rfl)
      cases hm.symm.trans hnone
  case onP =>
    exact step_of_refused ((State.fetch_of_turnP hturn).trans
      (State.fetchP_of_marked (s := { s with turns := turns }) hm hr hport))
  case onC =>
    exact step_of_refused ((State.fetch_of_turnC hturn).trans
      (State.fetchC_of_marked (s := { s with turns := turns }) hm hr hport))

/-! A placed word (O6). -/

/-- A table word and its beats decode, before any stream, to the command the host reads from the word. -/
theorem decode_of_decodeTableWord {Act : Type} {nbits w : Nat} {i : Instr} (h : decodeTableWord nbits w = some i)
    (rest : List (PortItem Act)) :
    decode (portOfWord (tableWord nbits w))
      (.word (tableWord nbits w) :: ((tableBeats nbits w).map PortItem.beat ++ rest)) = .ok (i, rest) := by
  unfold decodeTableWord at h
  split at h
  · rename_i head hw
    refine decode_word_ok_iff.2 ⟨head, tableBeats nbits w, hw, ?_, rfl, Option.some.inj h⟩
    rw [tableBeats, hw]
    exact length_beatsOfNat _ _
  · cases h

/-- What is placed on a port and decodes there is the next command, in the state without it, with RESET released, no
refusal mark and the lock FREE. -/
theorem step_place {s : State} {p : Port} {w : Word} {beats : List Sample} {i : Instr}
    (hd : ∀ (Act : Type) (rest : List (PortItem Act)),
      decode p (.word w :: (beats.map PortItem.beat ++ rest)) = .ok (i, rest)) :
    step (s.place p w beats) = State.settle { s with resetIn := false, mark := none, lock := .free }
      (exec i { s with resetIn := false, mark := none, lock := .free }) := by
  cases p with
  | P =>
    exact step_of_command ((State.fetch_of_turnP rfl).trans
      (State.fetchP_of_decode rfl rfl (hd _ _) (State.mustWait_of_free rfl i)))
  | C =>
    exact step_of_command ((State.fetch_of_turnC rfl).trans
      (State.fetchC_of_decode rfl rfl (hd _ _) (State.mustWait_of_free rfl i)))

/-- Settles O6: the placed items decode to the word's command, so the step settles its outcome (`step_place`). -/
theorem placedWordIsTheNextCommand : Obligations.PlacedWordIsTheNextCommand := by
  intro s nbits w i h
  rw [State.withFetchWord, step_place fun _ rest => decode_of_decodeTableWord h rest]
  cases exec i { s with resetIn := false, mark := none, lock := .free } with
  | next t => rfl
  | fault r => rfl
  | refused r => exact ⟨_, rfl, rfl⟩

/-! RESET (O12). -/

/-- RESET asserted or released gives the block its reset state, and empties port P exactly where it rises over a PUSH
that awaits beats (70_reset_and_hazards.md R280). -/
theorem State.driveReset_of_event {s : State} {level : Bool} (h : level = true ∨ s.resetIn = true) :
    ∃ items, s.driveReset level = { s.resetBlock with resetIn := level, portP := items } ∧
      (level = true ∧ s.resetIn = false ∧ decode .P s.portP = .error .incomplete → items = []) ∧
      (¬ (level = true ∧ s.resetIn = false ∧ decode .P s.portP = .error .incomplete) → items = s.portP) := by
  cases hr : s.resetIn with
  | true =>
    have hsame : s.driveReset level = { s.resetBlock with resetIn := level, portP := s.portP } := by
      cases level <;> simp [State.driveReset, State.dropAwaiting, State.assertReset, hr]
    exact ⟨s.portP, hsame, fun ⟨_, hlow, _⟩ => (nomatch hlow), fun _ => rfl⟩
  | false =>
    obtain rfl : level = true := h.resolve_right (by simp [hr])
    obtain ⟨items, hdrop, hgone, hkept⟩ := State.dropAwaiting_cases hr
    refine ⟨items, ?_, fun ⟨_, _, hd⟩ => hgone hd, fun hno => hkept fun hd => hno ⟨rfl, rfl, hd⟩⟩
    rw [State.driveReset, if_pos rfl, hdrop]
    rfl

/-- Settles O12. -/
theorem resetEventRestoresTheBlock : Obligations.ResetEventRestoresTheBlock := by
  intro s turns level hturn hevent
  obtain ⟨items, hdrive, hgone, hkept⟩ := State.driveReset_of_event (s := { s with turns := turns }) hevent
  have hstep := step_of_quiet ((State.fetch_of_rst hturn).trans (congrArg Fetched.quiet hdrive))
  exact ⟨_, hstep, rfl, rfl, { s.resetBlock_blockIsReset with }, ⟨rfl, rfl, rfl, rfl, rfl, rfl, rfl, rfl, rfl, rfl⟩,
    rfl, rfl, rfl, rfl, rfl, hgone, hkept⟩

/-! Key codes out of range (O19). -/

theorem execEncode_of_keys_out_of_range {s : State} (hg : s.gateOpen = true) (hk : ¬ s.cfg.keysInRange) :
    execEncode s = .refused .keyCodeOutOfRange := by
  rw [execEncode, if_pos hg, if_neg hk]

/-- Settles O19. -/
theorem keyCodeOutOfRangeIsRefused : Obligations.KeyCodeOutOfRangeIsRefused := by
  rintro s hactive hpaused ⟨row, hrow, slot, hslot, k, hk, hout⟩
  refine execEncode_of_keys_out_of_range (State.gateOpen_iff.2 ⟨hactive, hpaused⟩) fun hkeys => ?_
  exact absurd (hkeys row hrow slot hslot k hk) (Nat.not_lt.2 hout)

end Sys2Proof.Machine

/-! Proofs for 70_reset_and_hazards.md: a word at the front of a port while RESET is asserted (O7). -/

namespace Sys2Proof.Machine

theorem State.fetchP_of_asserted {s : State} {w : Word} {rest : List (PortItem EnvAction)} (hr : s.resetIn = true)
    (hport : s.portP = .word w :: rest) : s.fetchP = .quiet s := by
  simp [State.fetchP, hport, hr]

theorem State.fetchC_of_asserted {s : State} {w : Word} {rest : List (PortItem DevAction)} (hr : s.resetIn = true)
    (hport : s.portC = .word w :: rest) : s.fetchC = .quiet s := by
  simp [State.fetchC, hport, hr]

/-- Settles O7: with RESET asserted the turn of either port is quiet, whether the refusal mark stands or not
(`State.fetchP_of_asserted`, `State.fetchC_of_asserted`). -/
theorem assertedResetAcceptsNoCommand : Obligations.AssertedResetAcceptsNoCommand := by
  refine ⟨fun s turns w rest hturn hr hport => ?_, fun s turns w rest hturn hr hport => ?_⟩
  · exact step_of_quiet ((State.fetch_of_turnP hturn).trans
      (State.fetchP_of_asserted (s := { s with turns := turns }) hr hport))
  · exact step_of_quiet ((State.fetch_of_turnC hturn).trans
      (State.fetchC_of_asserted (s := { s with turns := turns }) hr hport))

end Sys2Proof.Machine
